-- ==== Sys2Proof/Word.lean ====
section
/-! DEFINITION. The word types of the core (00_scope.md rules R7, R9): a word is an unsigned
32-bit value, bit 0 least significant; a byte occurs only in the adapter's buffers. -/

namespace Sys2Proof

/-- A word: one key word, one block half or the accumulator (`W` = 32, rule R7). -/
abbrev Word := BitVec 32

/-- A byte of the adapter's buffers (42_adapter_boundary.md); the core itself has no bytes. -/
abbrev Byte := BitVec 8

end Sys2Proof
end

