-- ==== Sys2Proof/Syntax.lean ====
section
/-! DEFINITION. The syntax of the machine: one constructor of `Instr` per row of
spec/opcode_table.json, the two formats, the sequencer's three named bits, the input ports
(10_state.md rule R34), and the lines of a host's command script (30_encoding.md rule R80). -/

namespace Sys2Proof

/-- One constructor per row of the opcode table: the four host commands of format `CMD` with the
operands their ports carry (rules R71, R77, R78), and the four internal micro-operations of format
`USTEP` (rule R74), which have no operand. -/
inductive Instr where
  /-- NOP, rule R91. -/
  | nop
  /-- SETKEY k0, k1, k2, k3, rule R92 (the source's Construction). -/
  | setkey (k0 k1 k2 k3 : Word)
  /-- ENCIPHER v0, v1, rule R93 (the source's `encipher_block`). -/
  | encipher (v0 v1 : Word)
  /-- DECIPHER v0, v1, rule R94 (the source's `decipher_block`). -/
  | decipher (v0 v1 : Word)
  /-- ENC_A, rule R113. -/
  | encA
  /-- ENC_B, rule R114. -/
  | encB
  /-- DEC_A, rule R115. -/
  | decA
  /-- DEC_B, rule R116. -/
  | decB
  deriving DecidableEq, Repr

/-- The two formats of rules R70 and R74: the host's command code, and the sequencer's selector. -/
inductive Format where
  | cmd
  | ustep
  deriving DecidableEq, Repr

/-- The format a row of the opcode table has. -/
def Instr.format : Instr → Format
  | .nop => .cmd
  | .setkey _ _ _ _ => .cmd
  | .encipher _ _ => .cmd
  | .decipher _ _ => .cmd
  | .encA => .ustep
  | .encB => .ustep
  | .decA => .ustep
  | .decB => .ustep

/-- `ST` (rule R27): `idle` is the bit value 0, `busy` is 1. -/
inductive SeqState where
  | idle
  | busy
  deriving DecidableEq, Repr

/-- `MODE` (rule R30): `enc` is the bit value 0, `dec` is 1. -/
inductive Mode where
  | enc
  | dec
  deriving DecidableEq, Repr

/-- `PHASE` (rule R29): `a` is the bit value 0 (the A half-round is next), `b` is 1. -/
inductive Phase where
  | a
  | b
  deriving DecidableEq, Repr

/-- The input ports of rule R34, the values the host drives in one step. -/
structure InPorts where
  /-- `rst`, the reset request. -/
  rst : Bool
  /-- `cmd_valid`: the host is presenting a command. -/
  cmdValid : Bool
  /-- `cmd[1:0]`, the command code. -/
  cmd : BitVec 2
  /-- `kin0`, key word 0 for SETKEY. -/
  kin0 : Word
  /-- `kin1`, key word 1 for SETKEY. -/
  kin1 : Word
  /-- `kin2`, key word 2 for SETKEY. -/
  kin2 : Word
  /-- `kin3`, key word 3 for SETKEY. -/
  kin3 : Word
  /-- `din0`, block half v0 for ENCIPHER and DECIPHER. -/
  din0 : Word
  /-- `din1`, block half v1 for ENCIPHER and DECIPHER. -/
  din1 : Word
  deriving DecidableEq, Repr

/-- One entry of the host's script.  The four forms of rule R80 (a command line, `WAIT`, `READ`,
`RESET`) and `drive`, one step of arbitrary port values, which lets a host break the handshake's
manners (present a command and withdraw it, change it before it is accepted, hold `rst`). -/
inductive HostAction where
  /-- Drive exactly these port values for one step. -/
  | drive (p : InPorts)
  /-- A command line of rule R80: hold `cmd_valid` = 1 with the code and operands of `p` until the
  step in which `cmd_ready` = 1 (`p.rst` and `p.cmdValid` are not used). -/
  | command (p : InPorts)
  /-- `WAIT`: present `cmd_valid` = 0 until `dv` = 1. -/
  | wait
  /-- `READ`: sample `dout0`, `dout1`; requires `dv` = 1 (rule R156, `NoData`). -/
  | read
  /-- `RESET`: assert `rst` for one step. -/
  | reset
  deriving DecidableEq, Repr

end Sys2Proof
end

