-- ==== Sys2Proof/WellFormed.lean ====
section
/-! DEFINITION. Well-formedness.  Every operand of an instruction is a whole word of 32 bits and
every value of it is legal (40_commands.md rules R92 to R94), so nothing about the operands needs a
check; what can be wrong is the place an instruction stands in, and an encoding's unused parts. -/

namespace Sys2Proof

/-- An encoding of either format: for `CMD` the input ports of the step (rules R70, R71), for
`USTEP` the 2-bit selector (rule R74). -/
structure Encoded where
  /-- Which of the two formats. -/
  format : Format
  /-- The ports of the step; only those the command reads matter. -/
  ports : InPorts
  /-- The selector `MODE ++ PHASE`; it matters in format `USTEP` only. -/
  sel : BitVec 2
  deriving DecidableEq, Repr

/-- The check that a format can carry an instruction: a host can present only the four rows of
format `CMD`, and the sequencer selects only the four of format `USTEP` (rules R70, R74, R82). -/
def Instr.fits (f : Format) (i : Instr) : Bool := i.format == f

/-- Ports that present a command, with the ports the command ignores (rule R71) at 0. -/
def InPorts.canonical (p : InPorts) : InPorts :=
  { rst := false
    cmdValid := true
    cmd := p.cmd
    kin0 := if p.cmd = 0b01#2 then p.kin0 else 0#32
    kin1 := if p.cmd = 0b01#2 then p.kin1 else 0#32
    kin2 := if p.cmd = 0b01#2 then p.kin2 else 0#32
    kin3 := if p.cmd = 0b01#2 then p.kin3 else 0#32
    din0 := if p.cmd = 0b10#2 ∨ p.cmd = 0b11#2 then p.din0 else 0#32
    din1 := if p.cmd = 0b10#2 ∨ p.cmd = 0b11#2 then p.din1 else 0#32 }

/-- The encoding with everything its decoder does not look at made 0. -/
def Encoded.canonical (e : Encoded) : Encoded :=
  match e.format with
  | .cmd => { format := .cmd, ports := e.ports.canonical, sel := 0b00#2 }
  | .ustep =>
    { format := .ustep
      ports := { rst := false, cmdValid := false, cmd := 0b00#2, kin0 := 0#32, kin1 := 0#32, kin2 := 0#32,
                 kin3 := 0#32, din0 := 0#32, din1 := 0#32 }
      sel := e.sel }

/-- The check that an encoding carries nothing its decoder would drop. -/
def Encoded.isCanonical (e : Encoded) : Bool := e == e.canonical

end Sys2Proof
end

