-- ==== Sys2Proof/Decode.lean ====
section
/-! DEFINITION. The two decoders of 30_encoding.md rule R82 (the command port, the sequencer) and,
after them, an encoder written from the tables of rules R72 and R74.  Decoding is total: all four
codes of each format are assigned (rule R73), so there is nothing to reject. -/

namespace Sys2Proof

/-- All input ports at 0: the host presents nothing (rule R73: equivalent to presenting NOP). -/
def InPorts.idle : InPorts :=
  { rst := false, cmdValid := false, cmd := 0b00#2, kin0 := 0#32, kin1 := 0#32, kin2 := 0#32, kin3 := 0#32,
    din0 := 0#32, din1 := 0#32 }

/-- `rst` asserted and nothing else (the host action RESET of rule R80). -/
def InPorts.reset : InPorts := { InPorts.idle with rst := true }

/-- The command table, rule R72: the code on `cmd[1:0]`, with each operand taken from the port rule
R71 names for it. -/
def decodeCmd (p : InPorts) : Instr :=
  if p.cmd = 0b00#2 then .nop
  else if p.cmd = 0b01#2 then .setkey p.kin0 p.kin1 p.kin2 p.kin3
  else if p.cmd = 0b10#2 then .encipher p.din0 p.din1
  else .decipher p.din0 p.din1

/-- The bit value of `MODE` (rule R30). -/
def Mode.bit : Mode → BitVec 1
  | .enc => 0b0#1
  | .dec => 0b1#1

/-- The bit value of `PHASE` (rule R29). -/
def Phase.bit : Phase → BitVec 1
  | .a => 0b0#1
  | .b => 0b1#1

/-- The selector `MODE ++ PHASE` of rule R74, `MODE` in the high bit. -/
def selector (m : Mode) (ph : Phase) : BitVec 2 := m.bit ++ ph.bit

/-- The micro-operation table, rule R74. -/
def decodeSelector (sel : BitVec 2) : Instr :=
  if sel = 0b00#2 then .encA
  else if sel = 0b01#2 then .encB
  else if sel = 0b10#2 then .decA
  else .decB

/-- The sequencer's decoder (rules R82, R117): the micro-operation that (`MODE`, `PHASE`) names. -/
def decodeUstep (m : Mode) (ph : Phase) : Instr := decodeSelector (selector m ph)

/-- Decode an encoding of either format. -/
def decode (e : Encoded) : Instr :=
  match e.format with
  | .cmd => decodeCmd e.ports
  | .ustep => decodeSelector e.sel

/-- The code of an instruction in its own format: the columns `cmd[1:0]` of rule R72 and
`MODE ++ PHASE` of rule R74. -/
def Instr.code : Instr → BitVec 2
  | .nop => 0b00#2
  | .setkey _ _ _ _ => 0b01#2
  | .encipher _ _ => 0b10#2
  | .decipher _ _ => 0b11#2
  | .encA => 0b00#2
  | .encB => 0b01#2
  | .decA => 0b10#2
  | .decB => 0b11#2

/-- The port values with which a host presents a command (rule R71), the ports it ignores at 0.  A
micro-operation cannot be presented (rule R74): nothing is driven for it. -/
def encodeCmd : Instr → InPorts
  | .nop => { InPorts.idle with cmdValid := true, cmd := 0b00#2 }
  | .setkey k0 k1 k2 k3 =>
    { InPorts.idle with cmdValid := true, cmd := 0b01#2, kin0 := k0, kin1 := k1, kin2 := k2, kin3 := k3 }
  | .encipher v0 v1 => { InPorts.idle with cmdValid := true, cmd := 0b10#2, din0 := v0, din1 := v1 }
  | .decipher v0 v1 => { InPorts.idle with cmdValid := true, cmd := 0b11#2, din0 := v0, din1 := v1 }
  | .encA => InPorts.idle
  | .encB => InPorts.idle
  | .decA => InPorts.idle
  | .decB => InPorts.idle

/-- The encoding of an instruction in its own format. -/
def encode (i : Instr) : Encoded :=
  match i.format with
  | .cmd => { format := .cmd, ports := encodeCmd i, sel := 0b00#2 }
  | .ustep => { format := .ustep, ports := InPorts.idle, sel := i.code }

/-- The port values of a command whose word is `w`, every operand port at 0.  Only `cmd[1:0]`
exists, so the decoder of rule R82 looks at `w & 3`. -/
def portsOfTableWord (w : Nat) : InPorts :=
  { InPorts.idle with cmdValid := true, cmd := BitVec.ofNat 2 w }

/-- The instruction the command decoder reads from a word numbered as the opcode table numbers it.
The table gives the same four numbers to the rows of format `CMD` and to those of format `USTEP`;
a word that arrives at the machine can only be a command (rule R70: "the only format a host ever
sees"), so the command it is (notes/assumptions/7.md).  A word shorter than the port is none. -/
def decodeTableWord (nbits w : Nat) : Option Instr :=
  if nbits < 2 then none else some (decodeCmd (portsOfTableWord w))

end Sys2Proof
end

