-- ==== Sys2Proof/Config.lean ====
section
/-! DEFINITION. What an implementation fixes and what the spec leaves open: the constants of rules
R7 and R75, the parameter `DELTA`, and the two free parameters (the contents of a data register
after a reset event, the numeric codes of the adapter's errors). -/

namespace Sys2Proof

/-- `DELTA`, the accumulator constant, at the default rule R7 gives it.
PRESUMED (notes/assumptions/1.md): the source states no numeral; the value is the spec's own, "from
general knowledge, not in source" (D1, GK1).  Unsafe for a claim that names a ciphertext; every
operation that uses the constant takes it as an argument with this default, so that a law can be
stated for every value (notes/assumptions/18.md). -/
def Config.delta : Word := 0x9E3779B9#32

/-- `NROUNDS` (rules R2, R7): iterations of the loop in each direction. -/
def Config.nRounds : Nat := 32

/-- `SHL` (rules R7, R75): the left-shift amount of the mixing function. -/
def Config.shl : Nat := 4

/-- `SHR` (rules R7, R75): the right-shift amount of the mixing function. -/
def Config.shr : Nat := 5

/-- `KSEL_B_LO` (rules R7, R75): the low bit of the B side's index field. -/
def Config.kselBLo : Nat := 11

/-- The index mask (rule R75), zero-extended to a word. -/
def Config.idxMask : Word := 3#32

/-- `SUM0_ENC` (rule R7): the accumulator at the start of an encipher. -/
def Config.sum0Enc : Word := 0#32

/-- FREE VALUE (notes/assumptions/3.md): what a data register (`K[0..3]`, `V0`, `V1`, `SUM`) holds
after a reset event in a run.  Rules R38 and R170 say such a register holds no value, so nothing
constrains this constant; the argument is the counter `State.freeNext`.  Safe. -/
opaque Config.resetWord : Nat → Word

/-- The adapter's error taxonomy (42_adapter_boundary.md rule R138).  An I/O failure carries the
error of the underlying source or sink, which is "propagated without modification"; the number only
tells one such error from another. -/
inductive AdapterError where
  /-- Raised by a buffer call whose lengths break the precondition of rule R135. -/
  | invalidLength
  /-- Raised by a stream call whose source ends inside a chunk (rule R137). -/
  | incompleteBlock
  /-- An I/O error of the source or the sink, passed on as it came (rule R137). -/
  | ioFailure (cause : Nat)
  deriving DecidableEq, Repr

/-- `ERRCODE` (D21, U9), OPEN in the spec: the numeric code of an adapter error.  No body: nothing
in the spec fixes one (notes/assumptions/11.md).  Safe. -/
opaque Config.errCode : AdapterError → Nat

end Sys2Proof
end

