-- ==== Sys2Proof/Machine/State.lean ====
section
/-! DEFINITION. The state of one core (10_state.md rule R20), the host agent's own data beside it,
the reasons a step can stop, and the state after reset (rule R38). -/

namespace Sys2Proof.Machine

/-- The key file `K[0..3]` (rules R20, R24, R58): the core's only address space, four words reached
by a 2-bit word index.  `Sys2Proof.Machine.readKey` and `Sys2Proof.Machine.writeKey` are its access. -/
structure KeyFile where
  /-- `K[0]`. -/
  k0 : Word
  /-- `K[1]`. -/
  k1 : Word
  /-- `K[2]`. -/
  k2 : Word
  /-- `K[3]`. -/
  k3 : Word
  deriving DecidableEq, Repr

/-- The whole state.  The first ten fields are the rows of rule R20's table, 235 bits; the last
three are the model's own (notes/assumptions/4.md, notes/assumptions/3.md): the host agent is the
outside world of the core, and a step is a function of the state alone. -/
structure State where
  /-- `K[0..3]`, the key file (rule R24). -/
  k : KeyFile
  /-- `V0`, first half of the block (rule R21). -/
  v0 : Word
  /-- `V1`, second half of the block (rule R21). -/
  v1 : Word
  /-- `SUM`, the accumulator (rule R23). -/
  sum : Word
  /-- `ST` (rule R27). -/
  st : SeqState
  /-- `MODE` (rule R30). -/
  mode : Mode
  /-- `RND`, completed rounds, 6 bits (rule R28). -/
  rnd : BitVec 6
  /-- `PHASE` (rule R29). -/
  phase : Phase
  /-- `KV`, key valid (rule R31). -/
  kv : Bool
  /-- `DV`, data valid (rule R32). -/
  dv : Bool
  /-- The model's own: what the host will do, oldest first (rules R80, R34). -/
  script : List HostAction
  /-- The model's own: what the host's READs have returned, oldest first (rule R80). -/
  results : List (Word × Word)
  /-- The model's own: how many free values reset events have drawn. -/
  freeNext : Nat
  deriving DecidableEq, Repr

/-- The two obligations rule R156 places on the host. -/
inductive Violation where
  /-- `NoKey`: ENCIPHER or DECIPHER is accepted while `KV` = 0. -/
  | noKey
  /-- `NoData`: the host samples `dout0`, `dout1` as a result while `dv` = 0. -/
  | noData
  deriving DecidableEq, Repr

/-- The reasons a step can fault.  The core itself raises nothing (rules R150, R155). -/
inductive Fault where
  /-- `fault ProtocolViolation(reason)` of rule R156, not a hardware event: raised by the meanings of
  ENCIPHER and DECIPHER (`noKey`) and by the host's READ (`noData`).  Safe: "they err toward
  unprovable". -/
  | protocolViolation (reason : Violation)
  deriving DecidableEq, Repr

/-- The reasons a step can refuse.  No step of this model does. -/
inductive Refusal where
  /-- An arm of `exec` that has no meaning yet would raise it; every arm has one.  Safe. -/
  | notModelled (mnemonic : String)
  deriving DecidableEq, Repr

/-- The machine right after reset, rule R38: `ST` = IDLE and `MODE`, `RND`, `PHASE`, `KV`, `DV` = 0.
DESIGN CHOICE (notes/assumptions/2.md): the spec gives `K`, `V0`, `V1` and `SUM` no value; the model
names 0 for them.  Unsafe.  No rule reads them before a SETKEY or a block command writes them, and
the host's script is empty and nothing has been read. -/
def State.reset : State :=
  { k := { k0 := 0#32, k1 := 0#32, k2 := 0#32, k3 := 0#32 }
    v0 := 0#32
    v1 := 0#32
    sum := 0#32
    st := .idle
    mode := .enc
    rnd := 0#6
    phase := .a
    kv := false
    dv := false
    script := []
    results := []
    freeNext := 0 }

end Sys2Proof.Machine
end

