-- ==== Sys2Proof/Machine/Flags.lean ====
section
/-! DEFINITION. The status flags and the sequencer bits.  There are no condition codes (10_state.md
rule R33); what is computed is the completion test of rule R118 with the flags and the sequencer
position it moves (rules R26 to R32). -/

namespace Sys2Proof.Machine

/-- The completion test of rules R114, R116 and R118: the B micro-operation that raises `RND` to
32. -/
def completes (rnd : BitVec 6) : Bool := rnd + 1#6 == BitVec.ofNat 6 Config.nRounds

/-- The sequencer after an A micro-operation (rules R26, R113, R115): the B half-round is next. -/
def endPhaseA (s : State) : State := { s with phase := .b }

/-- The sequencer and `DV` after a B micro-operation (rules R114, R116, R118): one more round is
complete, and the last round's step makes the core idle and the result valid. -/
def endPhaseB (s : State) : State :=
  { s with
    phase := .a
    rnd := s.rnd + 1#6
    st := if completes s.rnd then .idle else s.st
    dv := if completes s.rnd then true else s.dv }

/-- The sequencer and `DV` after the acceptance of a block command (rules R93, R94). -/
def beginBlock (m : Mode) (s : State) : State :=
  { s with mode := m, rnd := 0#6, phase := .a, dv := false, st := .busy }

/-- The sequencer and the flags after a reset event (rules R38, R170). -/
def clearControl (s : State) : State :=
  { s with st := .idle, mode := .enc, rnd := 0#6, phase := .a, kv := false, dv := false }

end Sys2Proof.Machine
end

