-- ==== Sys2Proof/Machine/Arith.lean ====
section
/-! DEFINITION. The word operators of 00_scope.md rule R10 (laws: 41_round_steps.md rule R111), each
total, each returning a word, none keeping a carry or a borrow. -/

namespace Sys2Proof.Machine

/-- (a + b) mod 2^32. -/
def add32 (a b : Word) : Word := a + b

/-- (a − b) mod 2^32. -/
def sub32 (a b : Word) : Word := a - b

/-- (a × b) mod 2^32, used once, for `SUM0_DEC`. -/
def mul32 (a b : Word) : Word := a * b

/-- (a × 2^n) mod 2^32: the n high bits are lost. -/
def shl32 (a : Word) (n : Nat) : Word := a <<< n

/-- floor(a / 2^n): a logical shift, zero fill (D27). -/
def shr32 (a : Word) (n : Nat) : Word := a >>> n

/-- Bitwise exclusive or. -/
def xor32 (a b : Word) : Word := a ^^^ b

/-- Bitwise and. -/
def and32 (a b : Word) : Word := a &&& b

end Sys2Proof.Machine
end

