-- ==== Sys2Proof/Machine/Operands.lean ====
section
/-! DEFINITION. How operands are assembled: the key index from bits of the accumulator
(30_encoding.md rule R76), the key read (20_memory.md rule R52), the key term (41_round_steps.md rule
R112), the mixing function (rule R110) and the decipher accumulator's start (rules R7, R125). -/

namespace Sys2Proof.Machine

/-- `SUM0_DEC` = `mul32(DELTA, 32)` (rules R7, R23, R125). -/
def sum0Dec (delta : Word) : Word := mul32 delta (BitVec.ofNat 32 Config.nRounds)

/-- `F(x)`, rule R110: both shifts, then the exclusive or, then the addition of x (D2). -/
def mixF (x : Word) : Word := add32 (xor32 (shl32 x Config.shl) (shr32 x Config.shr)) x

/-- `idxA(s)` = `and32(s, 3)` = `s[1:0]`, rule R76. -/
def idxA (s : Word) : BitVec 2 := (and32 s Config.idxMask).setWidth 2

/-- `idxB(s)` = `and32(shr32(s, 11), 3)` = `s[12:11]`, rule R76. -/
def idxB (s : Word) : BitVec 2 := (and32 (shr32 s Config.kselBLo) Config.idxMask).setWidth 2

/-- `KeyRead(i)` = `K[i]`, the core's only load (rules R50, R52): every index names a word, and a
read changes nothing (rule R57). -/
def readKey (k : KeyFile) (i : BitVec 2) : Word :=
  if i = 0#2 then k.k0 else if i = 1#2 then k.k1 else if i = 2#2 then k.k2 else k.k3

/-- `KT_A(s)` = `add32(s, K[idxA(s)])`, rule R112. -/
def keyTermA (k : KeyFile) (s : Word) : Word := add32 s (readKey k (idxA s))

/-- `KT_B(s)` = `add32(s, K[idxB(s)])`, rule R112. -/
def keyTermB (k : KeyFile) (s : Word) : Word := add32 s (readKey k (idxB s))

end Sys2Proof.Machine
end

