-- ==== Sys2Proof/Machine/Ops.lean ====
section
/-! DEFINITION. The named operations over the registers: the key store, the loading of a block, the
acceptance guard of a command, the reset event, and the output ports.

There is no operation that takes an exception and none that returns from one: rule R155 of
60_exceptions.md says the core has no trap entry, no saved state, no vector and no return, and that
"a model must not add a trap path".  The one asynchronous event is reset (rule R170). -/

namespace Sys2Proof.Machine

/-- SETKEY's store (rules R56, R92): all four words at once, and `KV` with them. -/
def writeKey (k0 k1 k2 k3 : Word) (s : State) : State :=
  { s with k := { k0 := k0, k1 := k1, k2 := k2, k3 := k3 }, kv := true }

/-- A block command's loads (rules R22, R56, R93, R94): both halves and the accumulator at once. -/
def loadBlock (a b sum0 : Word) (s : State) : State := { s with v0 := a, v1 := b, sum := sum0 }

/-- The effect of an accepted command on the states in which it can be accepted (rule R90): in
`BUSY` no command is accepted and a command presented has no effect (notes/assumptions/5.md). -/
def accept (s : State) (effect : State → Host.Outcome State Fault Refusal) :
    Host.Outcome State Fault Refusal :=
  match s.st with
  | .idle => effect s
  | .busy => .next s

/-- The acceptance of a block command (rules R93, R94); without a key it is the host protocol
violation `NoKey` (rule R156). -/
def acceptBlock (m : Mode) (sum0 a b : Word) (s : State) : Host.Outcome State Fault Refusal :=
  if s.kv then .next (beginBlock m (loadBlock a b sum0 s)) else .fault (.protocolViolation .noKey)

/-- The reset event, rule R170: the control bits of rule R38; the seven data registers hold no value
afterwards, so each takes the next free value (notes/assumptions/3.md).  The host agent is not
reset. -/
def resetEvent (s : State) : State :=
  { clearControl s with
    k := { k0 := Config.resetWord s.freeNext, k1 := Config.resetWord (s.freeNext + 1),
           k2 := Config.resetWord (s.freeNext + 2), k3 := Config.resetWord (s.freeNext + 3) }
    v0 := Config.resetWord (s.freeNext + 4)
    v1 := Config.resetWord (s.freeNext + 5)
    sum := Config.resetWord (s.freeNext + 6)
    freeNext := s.freeNext + 7 }

/-- Output port `cmd_ready` (rule R35). -/
def portCmdReady (s : State) : Bool := s.st == .idle

/-- Output port `dv` (rule R35). -/
def portDv (s : State) : Bool := s.dv

/-- Output port `dout0` (rule R35); a result only while `dv` = 1, see `readResult`. -/
def portDout0 (s : State) : Word := s.v0

/-- Output port `dout1` (rule R35); a result only while `dv` = 1, see `readResult`. -/
def portDout1 (s : State) : Word := s.v1

/-- What a host that samples `dout0`, `dout1` as a result gets (rules R35, R156): the pair while
`dv` = 1, and no value while `dv` = 0. -/
def readResult (s : State) : Option (Word × Word) :=
  if portDv s then some (portDout0 s, portDout1 s) else none

end Sys2Proof.Machine
end

