-- ==== Sys2Proof/Machine/Commands.lean ====
section
/-! DEFINITION. The meanings of the four host commands, 40_commands.md rules R91 to R94, each the
step of its acceptance. -/

namespace Sys2Proof.Machine

/-- NOP, rule R91: no state element is written. -/
def execNop (s : State) : Host.Outcome State Fault Refusal := accept s fun t => .next t

/-- SETKEY, rule R92: the four key words and `KV`; any four words are a valid key. -/
def execSetkey (k0 k1 k2 k3 : Word) (s : State) : Host.Outcome State Fault Refusal :=
  accept s fun t => .next (writeKey k0 k1 k2 k3 t)

/-- ENCIPHER, rule R93: the block is loaded, `SUM` starts at 0, the sequencer at ENC_A of round 1. -/
def execEncipher (v0 v1 : Word) (s : State) : Host.Outcome State Fault Refusal :=
  accept s (acceptBlock .enc Config.sum0Enc v0 v1)

/-- DECIPHER, rule R94: as ENCIPHER, but `SUM` starts at `mul32(DELTA, 32)` and `MODE` is DEC.
`DELTA` is an argument with the default of rule R7. -/
def execDecipher (v0 v1 : Word) (s : State) (delta : Word := Config.delta) :
    Host.Outcome State Fault Refusal :=
  accept s (acceptBlock .dec (sum0Dec delta) v0 v1)

end Sys2Proof.Machine
end

