-- ==== Sys2Proof/Machine/Rounds.lean ====
section
/-! DEFINITION. The four half-round micro-operations, 41_round_steps.md rules R113 to R116.  Each is
written over an accumulator constant `delta`, an argument whose default is `Config.delta` (rule R7);
every right-hand side reads the state before the step (rule R12).  A micro-operation has no precondition
of its own: that it runs only while `ST` = BUSY, and which one runs, is the dispatch rule R117
(notes/assumptions/6.md). -/

namespace Sys2Proof.Machine

/-- Rule R113: `V0` is updated with the old `SUM`; then the accumulator moves up. -/
def encHalfA (delta : Word) (s : State) : State :=
  endPhaseA
    { s with v0 := add32 s.v0 (xor32 (mixF s.v1) (keyTermA s.k s.sum)), sum := add32 s.sum delta }

/-- Rule R114: `V1` is updated with the `V0` and the `SUM` that ENC_A left. -/
def encHalfB (s : State) : State :=
  endPhaseB { s with v1 := add32 s.v1 (xor32 (mixF s.v0) (keyTermB s.k s.sum)) }

/-- Rule R115: `V1` is updated with the old `SUM`; then the accumulator moves down. -/
def decHalfA (delta : Word) (s : State) : State :=
  endPhaseA
    { s with v1 := sub32 s.v1 (xor32 (mixF s.v0) (keyTermB s.k s.sum)), sum := sub32 s.sum delta }

/-- Rule R116: `V0` is updated with the `V1` and the `SUM` that DEC_A left. -/
def decHalfB (s : State) : State :=
  endPhaseB { s with v0 := sub32 s.v0 (xor32 (mixF s.v1) (keyTermA s.k s.sum)) }

/-- ENC_A, rule R113. -/
def execEncA (s : State) (delta : Word := Config.delta) : Host.Outcome State Fault Refusal :=
  .next (encHalfA delta s)

/-- ENC_B, rule R114. -/
def execEncB (s : State) : Host.Outcome State Fault Refusal := .next (encHalfB s)

/-- DEC_A, rule R115. -/
def execDecA (s : State) (delta : Word := Config.delta) : Host.Outcome State Fault Refusal :=
  .next (decHalfA delta s)

/-- DEC_B, rule R116. -/
def execDecB (s : State) : Host.Outcome State Fault Refusal := .next (decHalfB s)

end Sys2Proof.Machine
end

