-- ==== Sys2Proof/Machine/Dispatch.lean ====
section
/-! DEFINITION. `exec`: one arm per row of spec/opcode_table.json, each one direct call of its meaning. -/

namespace Sys2Proof.Machine

def exec (i : Instr) (s : State) : Host.Outcome State Fault Refusal :=
  match i with
  -- format CMD, 40_commands.md
  | .nop => Sys2Proof.Machine.execNop s
  | .setkey k0 k1 k2 k3 => Sys2Proof.Machine.execSetkey k0 k1 k2 k3 s
  | .encipher v0 v1 => Sys2Proof.Machine.execEncipher v0 v1 s
  | .decipher v0 v1 => Sys2Proof.Machine.execDecipher v0 v1 s
  -- format USTEP, 41_round_steps.md
  | .encA => Sys2Proof.Machine.execEncA s
  | .encB => Sys2Proof.Machine.execEncB s
  | .decA => Sys2Proof.Machine.execDecA s
  | .decB => Sys2Proof.Machine.execDecB s

end Sys2Proof.Machine
end

