-- ==== Sys2Proof/Machine/Sequencer.lean ====
section
/-! DEFINITION. What happens in one step around an instruction: the core's side (which of reset,
micro-operation, acceptance or nothing, 60_exceptions.md rule R154) and the host agent's side (what
it drives on the input ports and what it makes of the step, 30_encoding.md rule R80).  `DELTA`
is an argument of each whose default is `Config.delta` (rule R7). -/

namespace Sys2Proof.Machine

/-- An instruction's meaning with `DELTA` as an argument (rule R7); at the default it is `exec`, whose
form is fixed (notes/assumptions/18.md). -/
def execWith (delta : Word) (i : Instr) (s : State) : Host.Outcome State Fault Refusal :=
  match i with
  | .nop => execNop s
  | .setkey k0 k1 k2 k3 => execSetkey k0 k1 k2 k3 s
  | .encipher v0 v1 => execEncipher v0 v1 s
  | .decipher v0 v1 => execDecipher v0 v1 s delta
  | .encA => execEncA s delta
  | .encB => execEncB s
  | .decA => execDecA s delta
  | .decB => execDecB s

/-- One step of the core with the given values on its input ports: the order of evaluation of rule
R154 (rules R90, R117, R170). -/
def coreStep (p : InPorts) (s : State) (delta : Word := Config.delta) : Host.Outcome State Fault Refusal :=
  if p.rst then .next (resetEvent s)
  else
    match s.st with
    | .busy => execWith delta (decodeUstep s.mode s.phase) s
    | .idle => if p.cmdValid then execWith delta (decodeCmd p) s else .next s

/-- Steps of the core under a list of port values, one a step, stopping at the first fault. -/
def coreRun (ps : List InPorts) (s : State) (delta : Word := Config.delta) :
    Host.Outcome State Fault Refusal :=
  match ps with
  | [] => .next s
  | p :: ps =>
    match coreStep p s delta with
    | .next t => coreRun ps t delta
    | .fault r => .fault r
    | .refused r => .refused r

/-- What the host drives in this step (rule R80).  With nothing left to do it presents nothing
(notes/assumptions/4.md). -/
def drivenPorts (s : State) : InPorts :=
  match s.script with
  | [] => InPorts.idle
  | .drive p :: _ => p
  | .command p :: _ => { p with rst := false, cmdValid := true }
  | .wait :: _ => InPorts.idle
  | .read :: _ => InPorts.idle
  | .reset :: _ => InPorts.reset

/-- The host is about to sample the result ports (the action READ). -/
def hostReads (s : State) : Bool :=
  match s.script with
  | .read :: _ => true
  | _ => false

/-- What the host has still to do after a step from `s` to `t` (rule R80): a command line is done
when it was accepted (`cmd_ready` was 1), `WAIT` when `dv` is 1, everything else after one step. -/
def scriptAfter (s t : State) : List HostAction :=
  match s.script with
  | [] => []
  | .drive _ :: rest => rest
  | .command p :: rest => if portCmdReady s then rest else .command p :: rest
  | .wait :: rest => if portDv t then rest else .wait :: rest
  | .read :: rest => rest
  | .reset :: rest => rest

/-- The values the host has read, after a step from `s` (rule R80): READ samples the output ports
as they stand in `s`. -/
def resultsAfter (s : State) : List (Word × Word) :=
  if hostReads s then s.results ++ (readResult s).toList else s.results

/-- The host agent's own data brought up to date after the core has stepped from `s` to `t`. -/
def hostAdvance (s t : State) : State := { t with script := scriptAfter s t, results := resultsAfter s }

/-- One step of core and host together.  A READ while `dv` = 0 has no value: the protocol violation
`NoData`, a fault in the host agent (rule R156). -/
def machineStep (s : State) (delta : Word := Config.delta) : Host.Outcome State Fault Refusal :=
  if hostReads s && !portDv s then .fault (.protocolViolation .noData)
  else
    match coreStep (drivenPorts s) s delta with
    | .next t => .next (hostAdvance s t)
    | .fault r => .fault r
    | .refused r => .refused r

/-- `s` with a command placed so that the very next step accepts it: the core idle, and the host's
next action one step of those port values. -/
def placeCommand (p : InPorts) (s : State) : State :=
  { s with st := .idle, script := .drive p :: s.script }

end Sys2Proof.Machine
end

