-- ==== Sys2Proof/Machine/Step.lean ====
section
/-! DEFINITION. The machine's step, and the placing of a word where the next step takes it. -/

namespace Sys2Proof.Machine

/-- One step (rule R14 "step": a reset, the acceptance of a command, one micro-operation, or
nothing), the host agent's move included, with `DELTA` at its default (rule R7); `machineStep`
takes it as an argument. -/
def step (s : State) : Host.Outcome State Fault Refusal := machineStep s

/-- `s` with the command whose word is `w` on the command port in the very next step, its operand
ports at 0.  The core has no program counter and fetches nothing (rule R26): a command "comes to
run" when the host presents it while `ST` = IDLE (notes/assumptions/7.md). -/
def State.withFetchWord (s : State) (nbits w : Nat) : State :=
  if nbits < 2 then s else placeCommand (portsOfTableWord w) s

end Sys2Proof.Machine
end

