-- ==== Sys2Proof/Machine/Cipher.lean ====
section
/-! DEFINITION. The block functions `ENC` and `DEC`, 40_commands.md rules R96 and R97: the source's
`encipher_block` and `decipher_block` transcribed as loops over (v0, v1, sum), apart from the
sequencer's micro-operations, for an arbitrary accumulator constant. -/

namespace Sys2Proof.Machine

/-- The three variables of the loops of rules R96 and R97. -/
structure LoopVars where
  v0 : Word
  v1 : Word
  sum : Word
  deriving DecidableEq, Repr

/-- The loop body of rule R96, its three statements in order. -/
def encBody (delta : Word) (k : KeyFile) (w : LoopVars) : LoopVars :=
  let v0 := add32 w.v0
    (xor32 (add32 (xor32 (shl32 w.v1 4) (shr32 w.v1 5)) w.v1)
      (add32 w.sum (readKey k ((and32 w.sum 3#32).setWidth 2))))
  let sum := add32 w.sum delta
  let v1 := add32 w.v1
    (xor32 (add32 (xor32 (shl32 v0 4) (shr32 v0 5)) v0)
      (add32 sum (readKey k ((and32 (shr32 sum 11) 3#32).setWidth 2))))
  { v0 := v0, v1 := v1, sum := sum }

/-- The loop body of rule R97, its three statements in order. -/
def decBody (delta : Word) (k : KeyFile) (w : LoopVars) : LoopVars :=
  let v1 := sub32 w.v1
    (xor32 (add32 (xor32 (shl32 w.v0 4) (shr32 w.v0 5)) w.v0)
      (add32 w.sum (readKey k ((and32 (shr32 w.sum 11) 3#32).setWidth 2))))
  let sum := sub32 w.sum delta
  let v0 := sub32 w.v0
    (xor32 (add32 (xor32 (shl32 v1 4) (shr32 v1 5)) v1)
      (add32 sum (readKey k ((and32 sum 3#32).setWidth 2))))
  { v0 := v0, v1 := v1, sum := sum }

/-- `n` repetitions of the body of rule R96. -/
def encLoop (delta : Word) (k : KeyFile) : Nat → LoopVars → LoopVars
  | 0, w => w
  | n + 1, w => encLoop delta k n (encBody delta k w)

/-- `n` repetitions of the body of rule R97. -/
def decLoop (delta : Word) (k : KeyFile) : Nat → LoopVars → LoopVars
  | 0, w => w
  | n + 1, w => decLoop delta k n (decBody delta k w)

/-- The pair a loop returns. -/
def LoopVars.block (w : LoopVars) : Word × Word := (w.v0, w.v1)

/-- `ENC(k, a, b)`, rule R96. -/
def enc (delta : Word) (k : KeyFile) (a b : Word) : Word × Word :=
  (encLoop delta k 32 { v0 := a, v1 := b, sum := 0#32 }).block

/-- `DEC(k, a, b)`, rule R97. -/
def dec (delta : Word) (k : KeyFile) (a b : Word) : Word × Word :=
  (decLoop delta k 32 { v0 := a, v1 := b, sum := mul32 delta 32#32 }).block

end Sys2Proof.Machine
end

