-- ==== Sys2Proof/Machine/Adapter.lean ====
section
/-! DEFINITION. The contract at the boundary, 42_adapter_boundary.md: byte order, the buffer and
stream pseudo-operations and their errors, and the expansion of a pseudo-operation into command
lines (30_encoding.md rule R81).  None of it is part of the core's state or step (rules R5, R130):
these are functions beside the machine, and no definition of the step calls one. -/

namespace Sys2Proof.Machine

/-- The byte-order parameter of rule R131: exactly two values, an argument of every call. -/
inductive ByteOrder where
  | be
  | le
  deriving DecidableEq, Repr

/-- Word decode, rule R132, the bytes in buffer order. -/
def decodeWord (bo : ByteOrder) (b0 b1 b2 b3 : Byte) : Word :=
  match bo with
  | .be => b0 ++ b1 ++ b2 ++ b3
  | .le => b3 ++ b2 ++ b1 ++ b0

/-- Word encode, rule R133, the bytes in buffer order. -/
def encodeWord (bo : ByteOrder) (w : Word) : List Byte :=
  match bo with
  | .be => [w.extractLsb' 24 8, w.extractLsb' 16 8, w.extractLsb' 8 8, w.extractLsb' 0 8]
  | .le => [w.extractLsb' 0 8, w.extractLsb' 8 8, w.extractLsb' 16 8, w.extractLsb' 24 8]

/-- A result block as its output chunk, rule R134: `v0'` first under both byte orders. -/
def encodeChunk (bo : ByteOrder) (r : Word × Word) : List Byte := encodeWord bo r.1 ++ encodeWord bo r.2

/-- The bytes of a buffer taken as blocks in order, rule R134 (the first 4-byte group is v0), and the
bytes of a trailing partial chunk. -/
def chunks (bo : ByteOrder) : List Byte → List (Word × Word) × List Byte
  | b0 :: b1 :: b2 :: b3 :: b4 :: b5 :: b6 :: b7 :: rest =>
    let r := chunks bo rest
    ((decodeWord bo b0 b1 b2 b3, decodeWord bo b4 b5 b6 b7) :: r.1, r.2)
  | tail => ([], tail)

/-- What a buffer call leaves: the caller's output buffer, and the error if it raised one. -/
structure BufferResult where
  output : List Byte
  error : Option AdapterError
  deriving DecidableEq, Repr

/-- The length check that comes before anything else in a buffer call (rule R135). -/
def lengthsMatch (input output : List Byte) : Bool :=
  input.length % 8 == 0 && output.length == input.length

/-- A buffer call over a block function, rules R135 and R136: the length check first, "no partial
write", then each chunk in order, each by itself (rule R139). -/
def cipherBuffer (f : Word → Word → Word × Word) (input output : List Byte) (bo : ByteOrder) : BufferResult :=
  if lengthsMatch input output then
    { output := ((chunks bo input).1.map fun c => encodeChunk bo (f c.1 c.2)).flatten, error := none }
  else { output := output, error := some .invalidLength }

/-- `encipher_buffer(input, output, bo)` on an instance with key `k`, rule R135. -/
def encipherBuffer (delta : Word) (k : KeyFile) (input output : List Byte) (bo : ByteOrder) : BufferResult :=
  cipherBuffer (enc delta k) input output bo

/-- `decipher_buffer(input, output, bo)` on an instance with key `k`, rule R136. -/
def decipherBuffer (delta : Word) (k : KeyFile) (input output : List Byte) (bo : ByteOrder) : BufferResult :=
  cipherBuffer (dec delta k) input output bo

/-- What a stream call leaves: the bytes the sink received, and the error if one was raised. -/
structure StreamResult where
  sink : List Byte
  error : Option AdapterError
  deriving DecidableEq, Repr

/-- What a stream call raises when the source has no further whole chunk (rule R137). -/
def sourceEndError (bo : ByteOrder) (source : List Byte) (srcFails : Option Nat) : Option AdapterError :=
  match srcFails with
  | some e => some (.ioFailure e)
  | none => if (chunks bo source).2 = [] then none else some .incompleteBlock

/-- A stream call over a block function, rule R137: whole chunks one by one, each written before the
next is read; a partial chunk at the end is `IncompleteBlock`; an I/O error of the source, after the
bytes it gave (`srcFails`), or of the sink, after `n` chunks (`sinkFails = some (n, cause)`), is
passed on as it came and ends the call ("no retries").  Where both fail the sink's error comes
first, since a chunk is written before the source is read again. -/
def cipherStream (f : Word → Word → Word × Word) (bo : ByteOrder) (source : List Byte)
    (srcFails : Option Nat) (sinkFails : Option (Nat × Nat)) : StreamResult :=
  let c := chunks bo source
  let out := fun bs : List (Word × Word) => (bs.map fun b => encodeChunk bo (f b.1 b.2)).flatten
  let atEnd : StreamResult := { sink := out c.1, error := sourceEndError bo source srcFails }
  match sinkFails with
  | none => atEnd
  | some (n, e) =>
    if n < c.1.length then { sink := out (c.1.take n), error := some (.ioFailure e) } else atEnd

/-- Stream encipher on an instance with key `k`, rule R137. -/
def encipherStream (delta : Word) (k : KeyFile) (bo : ByteOrder) (source : List Byte)
    (srcFails : Option Nat) (sinkFails : Option (Nat × Nat)) : StreamResult :=
  cipherStream (enc delta k) bo source srcFails sinkFails

/-- Stream decipher on an instance with key `k`, rule R137. -/
def decipherStream (delta : Word) (k : KeyFile) (bo : ByteOrder) (source : List Byte)
    (srcFails : Option Nat) (sinkFails : Option (Nat × Nat)) : StreamResult :=
  cipherStream (dec delta k) bo source srcFails sinkFails

/-- The numeric code of an adapter error, `ERRCODE` of D21, left open. -/
def adapterErrorCode (e : AdapterError) : Nat := Config.errCode e

/-- A command line of rule R80. -/
def commandLine (i : Instr) : HostAction := .command (encodeCmd i)

/-- Construction from a key, as command lines (rule R81). -/
def constructScript (k : KeyFile) : List HostAction := [commandLine (.setkey k.k0 k.k1 k.k2 k.k3)]

/-- `encipher_block(v0, v1)` as command lines (rule R81): ENCIPHER, WAIT, READ. -/
def encipherBlockScript (c : Word × Word) : List HostAction := [commandLine (.encipher c.1 c.2), .wait, .read]

/-- `decipher_block(v0, v1)` as command lines (rule R81): DECIPHER, WAIT, READ. -/
def decipherBlockScript (c : Word × Word) : List HostAction := [commandLine (.decipher c.1 c.2), .wait, .read]

/-! ### Buffers and streams run on the core (rule R81)

A pseudo-operation is its command lines, and what the adapter makes of the words their READs return:
the bytes it writes and the error it raises. -/

/-- A buffer call's command lines: none where the length check fails (rule R135), else the block
operation of each chunk, in order. -/
def bufferScript (block : Word × Word → List HostAction) (bo : ByteOrder) (input output : List Byte) :
    List HostAction :=
  if lengthsMatch input output then ((chunks bo input).1.map block).flatten else []

/-- `encipher_buffer` as command lines (rules R81, R135). -/
def encipherBufferScript (bo : ByteOrder) (input output : List Byte) : List HostAction :=
  bufferScript encipherBlockScript bo input output

/-- `decipher_buffer` as command lines (rules R81, R136). -/
def decipherBufferScript (bo : ByteOrder) (input output : List Byte) : List HostAction :=
  bufferScript decipherBlockScript bo input output

/-- The results of the block operations encoded into the output chunks, each at the offset of its
input chunk (rule R135); chunks without a result yet are as the caller supplied them. -/
def writeChunks (bo : ByteOrder) (output : List Byte) (rs : List (Word × Word)) : List Byte :=
  (rs.map (encodeChunk bo)).flatten ++ output.drop (8 * rs.length)

/-- What a buffer call leaves, given the words its READs returned so far (rules R81, R135). -/
def bufferOutcome (input output : List Byte) (bo : ByteOrder) (rs : List (Word × Word)) : BufferResult :=
  if lengthsMatch input output then { output := writeChunks bo output rs, error := none }
  else { output := output, error := some .invalidLength }

/-- The blocks a stream call ciphers (rules R81, R137): every whole chunk of the source, up to the
one whose write the sink fails. -/
def streamBlocks (bo : ByteOrder) (source : List Byte) (sinkFails : Option (Nat × Nat)) : List (Word × Word) :=
  match sinkFails with
  | none => (chunks bo source).1
  | some (n, _) => (chunks bo source).1.take (n + 1)

/-- Stream encipher as command lines (rules R81, R137): the block operation of each chunk, in order. -/
def encipherStreamScript (bo : ByteOrder) (source : List Byte) (sinkFails : Option (Nat × Nat)) :
    List HostAction :=
  ((streamBlocks bo source sinkFails).map encipherBlockScript).flatten

/-- Stream decipher as command lines (rules R81, R137). -/
def decipherStreamScript (bo : ByteOrder) (source : List Byte) (sinkFails : Option (Nat × Nat)) :
    List HostAction :=
  ((streamBlocks bo source sinkFails).map decipherBlockScript).flatten

/-- What a stream call leaves, given the words its READs returned (rules R81, R137): each result is
encoded and written to the sink; the write that fails ends the call. -/
def streamOutcome (bo : ByteOrder) (source : List Byte) (srcFails : Option Nat)
    (sinkFails : Option (Nat × Nat)) (rs : List (Word × Word)) : StreamResult :=
  match sinkFails with
  | none => { sink := (rs.map (encodeChunk bo)).flatten, error := sourceEndError bo source srcFails }
  | some (n, e) =>
    { sink := ((rs.take n).map (encodeChunk bo)).flatten
      error := if n < rs.length then some (.ioFailure e) else sourceEndError bo source srcFails }

end Sys2Proof.Machine
end

