-- ==== Sys2Proof/Machine/Run.lean ====
section
/-! DEFINITION. Runs, 70_reset_and_hazards.md rule R184: a finite command script executed from the
reset state, when it has ended, its end state, and what a host can observe of that.  `DELTA` is an
argument with the default of rule R7. -/

namespace Sys2Proof.Machine

/-- `n` steps of core and host, stopping at the first fault or refusal. -/
def stepRun (n : Nat) (s : State) (delta : Word := Config.delta) : Host.Outcome State Fault Refusal :=
  match n with
  | 0 => .next s
  | n + 1 =>
    match machineStep s delta with
    | .next t => stepRun n t delta
    | .fault r => .fault r
    | .refused r => .refused r

/-- The start of a run: the reset state with the script still to be performed (rule R184). -/
def runStart (script : List HostAction) : State := { State.reset with script := script }

/-- A run has ended (rule R184): its last line has been performed, and `ST` = IDLE. -/
def runEnded (s : State) : Bool := s.script.isEmpty && portCmdReady s

/-- The state in which the run out of `s` ends, if it ends within `n` steps.  A run that contains a
protocol violation has none (rules R156, R184). -/
def endWithin (n : Nat) (s : State) (delta : Word := Config.delta) : Option State :=
  if runEnded s then some s
  else
    match n with
    | 0 => none
    | n + 1 =>
      match machineStep s delta with
      | .next t => endWithin n t delta
      | .fault _ => none
      | .refused _ => none

/-- `t` is the end state of the run of `script` (rule R184), however long the run takes. -/
def RunEndsIn (script : List HostAction) (t : State) (delta : Word := Config.delta) : Prop :=
  ∃ n : Nat, endWithin n (runStart script) delta = some t

/-- What a host can observe of a state (rules R40, R184). -/
structure Observation where
  /-- Output `cmd_ready`. -/
  cmdReady : Bool
  /-- Output `dv`. -/
  dv : Bool
  /-- `dout0` and `dout1` if `dv` = 1, and otherwise nothing. -/
  dout : Option (Word × Word)
  deriving DecidableEq, Repr

/-- The observable part of a state, the observable end state of a run that ends in it (rule R184). -/
def observe (s : State) : Observation :=
  { cmdReady := portCmdReady s, dv := portDv s, dout := readResult s }

end Sys2Proof.Machine
end

