-- ==== Sys2Proof/Safety.lean ====
section
/-! DEFINITION. The terms claims are stated in: the invariant of rule R39, the control part of a
state, port sequences without reset, and when a command or a sample breaks the host's protocol. -/

namespace Sys2Proof.Machine

/-- The number of A half-rounds the current round has behind it: the bit value of `PHASE`. -/
def phaseNat : Phase → Nat
  | .a => 0
  | .b => 1

/-- The seven items of 10_state.md rule R39, in its order, for an accumulator constant `delta`. -/
structure StateInv (delta : Word) (s : State) : Prop where
  /-- Item 1. -/
  rnd_le : s.rnd.toNat ≤ 32
  /-- Item 2. -/
  idle_rest : s.st = .idle → s.phase = .a ∧ (s.rnd = 0#6 ∨ s.rnd = 32#6)
  /-- Item 3. -/
  busy_flags : s.st = .busy → s.kv = true ∧ s.dv = false ∧ s.rnd.toNat ≤ 31
  /-- Item 4. -/
  valid_done : s.dv = true → s.st = .idle ∧ s.rnd = 32#6 ∧ s.kv = true
  /-- Item 5. -/
  enc_sum : s.st = .busy → s.mode = .enc →
    s.sum = mul32 delta (BitVec.ofNat 32 (s.rnd.toNat + phaseNat s.phase))
  /-- Item 6. -/
  dec_sum : s.st = .busy → s.mode = .dec →
    s.sum = mul32 delta (BitVec.ofNat 32 (32 - s.rnd.toNat - phaseNat s.phase))
  /-- Item 7. -/
  valid_sum : s.dv = true → s.sum = if s.mode = .enc then sum0Dec delta else 0#32

/-- The micro-operations a block operation in progress has still to run (rules R117, R118). -/
def remaining (s : State) : Nat := 64 - (2 * s.rnd.toNat + phaseNat s.phase)

/-- The state tuples (`ST`, `MODE`, `RND`, `PHASE`, `KV`, `DV`) of 95_test_vectors.md section 2.9. -/
structure Control where
  st : SeqState
  mode : Mode
  rnd : BitVec 6
  phase : Phase
  kv : Bool
  dv : Bool
  deriving DecidableEq, Repr

/-- The control part of a state. -/
def controlPart (s : State) : Control :=
  { st := s.st, mode := s.mode, rnd := s.rnd, phase := s.phase, kv := s.kv, dv := s.dv }

/-- Port values without a reset request in any step. -/
abbrev NoReset (ps : List InPorts) : Prop := ∀ p ∈ ps, p.rst = false

/-- Port values that present no block command in any step: `cmd_valid` = 0, NOP or SETKEY. -/
abbrev NoBlockCommand (ps : List InPorts) : Prop :=
  ∀ p ∈ ps, p.cmdValid = true → p.cmd = 0b00#2 ∨ p.cmd = 0b01#2

/-- The two block commands, with their direction and operands. -/
def blockCommand : Instr → Option (Mode × Word × Word)
  | .encipher a b => some (.enc, a, b)
  | .decipher a b => some (.dec, a, b)
  | .nop => none
  | .setkey _ _ _ _ => none
  | .encA => none
  | .encB => none
  | .decA => none
  | .decB => none

/-- The state a block operation in progress has at its completion (rules R119, R126): the block
function's value, the accumulator at its end, 32 rounds done, idle, the result valid. -/
def completed (r : Word × Word) (sumEnd : Word) (s : State) : State :=
  { s with v0 := r.1, v1 := r.2, sum := sumEnd, rnd := 32#6, phase := .a, st := .idle, dv := true }

/-- The four output ports together as they stand (rule R35), whether or not a sample of them is a
result; what a host can learn from them is `observe` (rules R40, R184). -/
def outputs (s : State) : Bool × Bool × Word × Word :=
  (portCmdReady s, portDv s, portDout0 s, portDout1 s)

end Sys2Proof.Machine
end

