-- ==== Sys2Proof/Certificates/Slice0/Obligations.lean ====
section
/-! DEFINITION. The statements for the provers.  Each docstring names the rules of spec/ it formalises. -/

open Sys2Proof Sys2Proof.Machine

/-! ### Encoding -/

/-- The command table (rule R72, with the operand ports of rule R71) and the micro-operation table
(rule R74), row by row. -/
def Obligations.AssignedCodesDecode : Prop :=
  (∀ p : InPorts,
    (p.cmd = 0b00#2 → decodeCmd p = .nop) ∧
    (p.cmd = 0b01#2 → decodeCmd p = .setkey p.kin0 p.kin1 p.kin2 p.kin3) ∧
    (p.cmd = 0b10#2 → decodeCmd p = .encipher p.din0 p.din1) ∧
    (p.cmd = 0b11#2 → decodeCmd p = .decipher p.din0 p.din1)) ∧
  decodeUstep .enc .a = .encA ∧ decodeUstep .enc .b = .encB ∧
  decodeUstep .dec .a = .decA ∧ decodeUstep .dec .b = .decB

/-- Decode and encode agree (rules R70 to R74): every instruction's encoding decodes to it; encoding
what an encoding decodes to gives that encoding with the unread parts at 0; and two encodings mean
one instruction exactly when they agree on format, code and the ports the command reads. -/
def Obligations.DecodeEncodeAgree : Prop :=
  (∀ i : Instr, decode (encode i) = i) ∧
  (∀ e : Encoded, encode (decode e) = e.canonical) ∧
  (∀ e e' : Encoded, decode e = decode e' ↔ e.canonical = e'.canonical)

/-- A word of the opcode table is decoded by its two low bits (rule R82: `match` = `cmd & mask`), and
a step that finds it on the command port runs exactly the instruction it decodes to. -/
def Obligations.TableWordRuns : Prop :=
  ∀ nbits w : Nat, 2 ≤ nbits →
    decodeTableWord nbits w = some
      (if w % 4 = 0 then .nop else if w % 4 = 1 then .setkey 0 0 0 0
        else if w % 4 = 2 then .encipher 0 0 else .decipher 0 0) ∧
    ∀ (i : Instr) (s t : State), decodeTableWord nbits w = some i →
      exec i (s.withFetchWord nbits w) = .next t →
      ∃ u, step (s.withFetchWord nbits w) = .next u ∧ u = { t with script := s.script }

/-- A step runs the decoded instruction (rules R90, R117, R154): with no reset request and no READ
without a result, a busy core runs the micro-operation that (`MODE`, `PHASE`) names and an idle core
runs the command on its port; around `exec` only the host's own data move. -/
def Obligations.StepRunsDecodedInstruction : Prop :=
  ∀ (s : State) (i : Instr), (hostReads s = true → s.dv = true) → (drivenPorts s).rst = false →
    (s.st = .busy ∧ i = decodeUstep s.mode s.phase ∨
      s.st = .idle ∧ (drivenPorts s).cmdValid = true ∧ i = decodeCmd (drivenPorts s)) →
    (∀ t, exec i s = .next t → step s = .next
      { t with script := scriptAfter s t
               results := if hostReads s then s.results ++ [(s.v0, s.v1)] else s.results }) ∧
    (∀ r, exec i s = .fault r → step s = .fault r) ∧ (∀ r, exec i s = .refused r → step s = .refused r)

/-! ### The datapath -/

/-- The word operators (rules R10, R111) as exact arithmetic on numbers, reduced modulo 2^32. -/
def Obligations.WordOperatorsExact : Prop :=
  ∀ (a b : Word) (n : Nat), n ≤ 31 →
    (add32 a b).toNat = (a.toNat + b.toNat) % 2 ^ 32 ∧
    (sub32 a b).toNat = (a.toNat + 2 ^ 32 - b.toNat) % 2 ^ 32 ∧
    (mul32 a b).toNat = (a.toNat * b.toNat) % 2 ^ 32 ∧
    (shl32 a n).toNat = (a.toNat * 2 ^ n) % 2 ^ 32 ∧
    (shr32 a n).toNat = a.toNat / 2 ^ n ∧
    (xor32 a b).toNat = a.toNat ^^^ b.toNat ∧
    (and32 a b).toNat = a.toNat &&& b.toNat ∧
    (and32 a 3#32).toNat = a.toNat % 4

/-- The mixing function (rule R110) as arithmetic on numbers; and "F is not a bijection". -/
def Obligations.MixingFunctionValue : Prop :=
  (∀ x : Word, (mixF x).toNat = ((x.toNat * 16 % 2 ^ 32 ^^^ x.toNat / 32) + x.toNat) % 2 ^ 32) ∧
  ¬ Function.Bijective mixF

/-- The two key indices (rule R76) are bits 1:0 and bits 12:11 of the accumulator, each 0 to 3, and
an index i names the word `K[i]` (rules R52, R58). -/
def Obligations.KeyIndexFields : Prop :=
  (∀ s : Word, idxA s = s.extractLsb' 0 2 ∧ (idxA s).toNat = s.toNat % 4 ∧
    idxB s = s.extractLsb' 11 2 ∧ (idxB s).toNat = s.toNat / 2048 % 4) ∧
  (∀ (k : KeyFile) (i : BitVec 2), readKey k i = ([k.k0, k.k1, k.k2, k.k3])[i.toNat]'(i.isLt))

/-- The key term (rule R112): the accumulator plus the key word its own bits select. -/
def Obligations.KeyTermValue : Prop :=
  ∀ (k : KeyFile) (s : Word),
    (keyTermA k s).toNat =
      (s.toNat + ((([k.k0, k.k1, k.k2, k.k3])[s.toNat % 4]?).getD 0).toNat) % 2 ^ 32 ∧
    (keyTermB k s).toNat =
      (s.toNat + ((([k.k0, k.k1, k.k2, k.k3])[s.toNat / 2048 % 4]?).getD 0).toNat) % 2 ^ 32

/-- The row of rule R111 for `mul32` and rule R125: for every `DELTA`, the product is what n wrapping
additions from 0 give, and `SUM0_DEC` is `shl32(DELTA, 5)`. -/
def Obligations.AccumulatorEndState : Prop :=
  ∀ delta : Word,
    (∀ n : Nat, (fun x => add32 x delta)^[n] 0#32 = mul32 delta (BitVec.ofNat 32 n)) ∧
    sum0Dec delta = (fun x => add32 x delta)^[32] 0#32 ∧ sum0Dec delta = shl32 delta 5

/-! ### The micro-operations -/

/-- ENC_A (rule R113): selected by `MODE` = 0, `PHASE` = 0; completes in every state, with the old `SUM` in the key term; nothing but
`V0`, `SUM` and `PHASE` is written. -/
def Obligations.EncAResult : Prop :=
  decodeUstep .enc .a = .encA ∧ ∀ s : State, exec .encA s = .next
    { s with
      v0 := s.v0 + ((((s.v1 <<< 4) ^^^ (s.v1 >>> 5)) + s.v1) ^^^
        (s.sum + readKey s.k (BitVec.ofNat 2 (s.sum.toNat % 4))))
      sum := s.sum + Config.delta
      phase := .b }

/-- ENC_B (rule R114): completes in every state; at the 32nd round it also makes the core idle and
the result valid. -/
def Obligations.EncBResult : Prop :=
  decodeUstep .enc .b = .encB ∧ ∀ s : State, exec .encB s = .next
    { s with
      v1 := s.v1 + ((((s.v0 <<< 4) ^^^ (s.v0 >>> 5)) + s.v0) ^^^
        (s.sum + readKey s.k (BitVec.ofNat 2 (s.sum.toNat / 2048 % 4))))
      phase := .a
      rnd := s.rnd + 1
      st := if s.rnd.toNat + 1 = 32 then .idle else s.st
      dv := if s.rnd.toNat + 1 = 32 then true else s.dv }

/-- DEC_A (rule R115). -/
def Obligations.DecAResult : Prop :=
  decodeUstep .dec .a = .decA ∧ ∀ s : State, exec .decA s = .next
    { s with
      v1 := s.v1 - ((((s.v0 <<< 4) ^^^ (s.v0 >>> 5)) + s.v0) ^^^
        (s.sum + readKey s.k (BitVec.ofNat 2 (s.sum.toNat / 2048 % 4))))
      sum := s.sum - Config.delta
      phase := .b }

/-- DEC_B (rule R116). -/
def Obligations.DecBResult : Prop :=
  decodeUstep .dec .b = .decB ∧ ∀ s : State, exec .decB s = .next
    { s with
      v0 := s.v0 - ((((s.v1 <<< 4) ^^^ (s.v1 >>> 5)) + s.v1) ^^^
        (s.sum + readKey s.k (BitVec.ofNat 2 (s.sum.toNat % 4))))
      phase := .a
      rnd := s.rnd + 1
      st := if s.rnd.toNat + 1 = 32 then .idle else s.st
      dv := if s.rnd.toNat + 1 = 32 then true else s.dv }

/-- The end of a block operation (rule R118): from a busy state a step without reset ends the
operation exactly when it is a B micro-operation and raises `RND` to 32, and then `cmd_ready`, `dv`
and `RND` = 32 stand together. -/
def Obligations.BlockEndsAtRound32 : Prop :=
  ∀ (p : InPorts) (s t : State), p.rst = false → s.st = .busy → coreStep p s = .next t →
    (t.st = .idle ↔ s.phase = .b ∧ t.rnd = 32#6) ∧
    (t.st = .idle → portCmdReady t = true ∧ portDv t = true ∧ t.phase = .a) ∧
    (t.st = .busy → t.dv = s.dv)

/-- For all states and keys DEC_A after ENC_B restores `V1`, and DEC_B after ENC_A, given the same
accumulator value, restores `V0` (the spec's own derivation in rule R122), for every `DELTA`. -/
def Obligations.HalfRoundsInvert : Prop :=
  ∀ (delta : Word) (s : State),
    (decHalfA delta (encHalfB s)).v1 = s.v1 ∧ (decHalfA delta (encHalfB s)).v0 = s.v0 ∧
    (decHalfB { encHalfA delta s with sum := s.sum }).v0 = s.v0 ∧
    (decHalfB { encHalfA delta s with sum := s.sum }).v1 = s.v1 ∧
    (encHalfB { decHalfA delta s with sum := s.sum }).v1 = s.v1 ∧
    (encHalfA delta (decHalfB s)).v0 = s.v0

/-! ### The commands -/

/-- NOP (rule R91): accepted, it completes and writes nothing, and presenting it is
indistinguishable from `cmd_valid` = 0. -/
def Obligations.NopWritesNothing : Prop :=
  (∀ s : State, s.st = .idle → exec .nop s = .next s) ∧
  (∀ (p : InPorts) (s : State), p.cmd = 0b00#2 →
    coreStep { p with cmdValid := true } s = coreStep { p with cmdValid := false } s)

/-- SETKEY (rule R92): on an idle core it completes for every four words, and writes `K` and `KV`
and nothing else; presented as `cmd` = `01`, it takes the words of `kin0` to `kin3`. -/
def Obligations.SetkeyResult : Prop :=
  ∀ (k0 k1 k2 k3 : Word) (s : State), s.st = .idle →
    exec (.setkey k0 k1 k2 k3) s = .next { s with k := ⟨k0, k1, k2, k3⟩, kv := true } ∧
    ∀ p : InPorts, p.rst = false → p.cmdValid = true → p.cmd = 0b01#2 →
      coreStep p s = .next { s with k := ⟨p.kin0, p.kin1, p.kin2, p.kin3⟩, kv := true }

/-- The acceptance of ENCIPHER (rule R93) on an idle core with a key completes for every pair of
words. -/
def Obligations.EncipherAccepted : Prop :=
  ∀ (a b : Word) (s : State), s.st = .idle → s.kv = true →
    exec (.encipher a b) s = .next
      { s with v0 := a, v1 := b, sum := 0, mode := .enc, rnd := 0, phase := .a, dv := false, st := .busy }

/-- The acceptance of DECIPHER (rule R94): as ENCIPHER, in mode DEC, with the accumulator at its end
value. -/
def Obligations.DecipherAccepted : Prop :=
  ∀ (a b : Word) (s : State), s.st = .idle → s.kv = true →
    exec (.decipher a b) s = .next
      { s with v0 := a, v1 := b, sum := Config.delta * 32, mode := .dec, rnd := 0, phase := .a,
               dv := false, st := .busy }

/-- A command turned away: while `ST` = BUSY the meaning of each of the four commands leaves the
state (rule R90's "no command is accepted"); that it leaves the state rather than stops is the
model's choice (notes/assumptions/5.md), since the step never runs a command while BUSY. -/
def Obligations.BusyTurnsCommandsAway : Prop :=
  ∀ (i : Instr) (s : State), i.format = .cmd → s.st = .busy → exec i s = .next s

/-- The two protocol violations (rule R156): a block command accepted while `KV` = 0, and a READ
while `dv` = 0. -/
def Obligations.ProtocolViolationsFault : Prop :=
  (∀ (a b : Word) (s : State), s.st = .idle → s.kv = false →
    exec (.encipher a b) s = .fault (.protocolViolation .noKey) ∧
    exec (.decipher a b) s = .fault (.protocolViolation .noKey)) ∧
  (∀ (s : State) (rest : List HostAction), s.script = .read :: rest → s.dv = false →
    step s = .fault (.protocolViolation .noData))

/-- Only a protocol violation faults (rule R150), and nothing is refused: every fault of a step is
`NoKey` at the acceptance of a block command on an idle core without a key, or `NoData` at a READ
while `dv` = 0. -/
def Obligations.OnlyViolationsFault : Prop :=
  (∀ (s : State) (r : Fault), step s = .fault r →
    (r = .protocolViolation .noKey ∧ s.st = .idle ∧ s.kv = false ∧ (drivenPorts s).rst = false ∧
      (drivenPorts s).cmdValid = true ∧ (blockCommand (decodeCmd (drivenPorts s))).isSome) ∨
    (r = .protocolViolation .noData ∧ hostReads s = true ∧ s.dv = false)) ∧
  (∀ (s : State) (r : Refusal), step s ≠ .refused r)

/-! ### The step -/

/-- The order of evaluation within one step (rule R154): reset, then a micro-operation while BUSY,
then the acceptance of a command while IDLE, otherwise nothing. -/
def Obligations.StepOrderOfEvaluation : Prop :=
  ∀ (p : InPorts) (s : State),
    (p.rst = true → coreStep p s = .next (resetEvent s)) ∧
    (p.rst = false → s.st = .busy → coreStep p s = exec (decodeUstep s.mode s.phase) s) ∧
    (p.rst = false → s.st = .idle → p.cmdValid = true → coreStep p s = exec (decodeCmd p) s) ∧
    (p.rst = false → s.st = .idle → p.cmdValid = false → coreStep p s = .next s)

/-- Dispatch (rule R117): a busy core's step without reset is the micro-operation that (`MODE`,
`PHASE`) names, whatever else the host drives. -/
def Obligations.BusyDispatch : Prop :=
  ∀ (p : InPorts) (s : State), p.rst = false → s.st = .busy →
    (s.mode = .enc → s.phase = .a → coreStep p s = exec .encA s) ∧
    (s.mode = .enc → s.phase = .b → coreStep p s = exec .encB s) ∧
    (s.mode = .dec → s.phase = .a → coreStep p s = exec .decA s) ∧
    (s.mode = .dec → s.phase = .b → coreStep p s = exec .decB s) ∧
    (∀ q : InPorts, q.rst = false → coreStep q s = coreStep p s)

/-- Which ports each command reads, and when (rule R71): a port a command ignores has no effect on any
state, and a step that accepts no command samples no operand port. -/
def Obligations.IgnoredPortsHaveNoEffect : Prop :=
  (∀ (p q : InPorts) (s : State), p.rst = q.rst → p.cmdValid = q.cmdValid → p.cmd = q.cmd →
    (p.cmd = 0b01#2 → p.kin0 = q.kin0 ∧ p.kin1 = q.kin1 ∧ p.kin2 = q.kin2 ∧ p.kin3 = q.kin3) →
    (p.cmd = 0b10#2 ∨ p.cmd = 0b11#2 → p.din0 = q.din0 ∧ p.din1 = q.din1) →
    coreStep p s = coreStep q s) ∧
  (∀ (p q : InPorts) (s : State), p.rst = false → q.rst = false →
    (s.st = .busy ∨ p.cmdValid = false ∧ q.cmdValid = false) → coreStep p s = coreStep q s) ∧
  (∀ (p : InPorts) (s : State), p.rst = false → s.st = .idle → p.cmdValid = true →
    (p.cmd = 0b00#2 → coreStep p s = exec .nop s) ∧
    (p.cmd = 0b01#2 → coreStep p s = exec (.setkey p.kin0 p.kin1 p.kin2 p.kin3) s) ∧
    (p.cmd = 0b10#2 → coreStep p s = exec (.encipher p.din0 p.din1) s) ∧
    (p.cmd = 0b11#2 → coreStep p s = exec (.decipher p.din0 p.din1) s))

/-- Who writes what (the "written by" column of rule R20, with rules R22, R23, R30 to R32): a state
element an instruction changes is one the table gives it, for all eight instructions; the frame of
each.  `K`, the only memory, is changed by SETKEY alone. -/
def Obligations.WrittenOnlyByItsWriters : Prop :=
  ∀ (i : Instr) (s t : State), exec i s = .next t →
    (t.k ≠ s.k → ∃ k0 k1 k2 k3, i = .setkey k0 k1 k2 k3) ∧
    (t.v0 ≠ s.v0 → (blockCommand i).isSome ∨ i = .encA ∨ i = .decB) ∧
    (t.v1 ≠ s.v1 → (blockCommand i).isSome ∨ i = .encB ∨ i = .decA) ∧
    (t.sum ≠ s.sum → (blockCommand i).isSome ∨ i = .encA ∨ i = .decA) ∧
    (t.st ≠ s.st → (blockCommand i).isSome ∨ i = .encB ∨ i = .decB) ∧
    (t.mode ≠ s.mode → (blockCommand i).isSome) ∧
    (t.rnd ≠ s.rnd → (blockCommand i).isSome ∨ i = .encB ∨ i = .decB) ∧
    (t.phase ≠ s.phase → (blockCommand i).isSome ∨ i.format = .ustep) ∧
    (t.kv ≠ s.kv → ∃ k0 k1 k2 k3, i = .setkey k0 k1 k2 k3) ∧
    (t.dv ≠ s.dv → (blockCommand i).isSome ∨ i = .encB ∨ i = .decB) ∧
    t.script = s.script ∧ t.results = s.results ∧ t.freeNext = s.freeNext

/-- The key never changes while a block operation is in progress (rules R25, R177), and a step
without reset that changes it is the acceptance of a SETKEY on an idle core. -/
def Obligations.KeyStableWhileBusy : Prop :=
  (∀ (ps : List InPorts) (s t : State), StateInv Config.delta s → s.st = .busy → NoReset ps →
    ps.length ≤ remaining s → coreRun ps s = .next t → t.k = s.k) ∧
  (∀ (p : InPorts) (s t : State), p.rst = false → coreStep p s = .next t → t.k ≠ s.k →
    s.st = .idle ∧ p.cmdValid = true ∧ p.cmd = 0b01#2 ∧ t.k = ⟨p.kin0, p.kin1, p.kin2, p.kin3⟩ ∧ t.kv = true)

/-- `KV` (rule R31): 0 at reset, set by an accepted SETKEY, cleared by a reset event, written by
nothing else; no output port shows it. -/
def Obligations.KeyValidFlagRule : Prop :=
  State.reset.kv = false ∧
  (∀ (s : State) (b : Bool), outputs { s with kv := b } = outputs s) ∧
  ∀ (p : InPorts) (s t : State), coreStep p s = .next t →
    (p.rst = true → t.kv = false) ∧
    (p.rst = false → s.st = .idle → p.cmdValid = true → p.cmd = 0b01#2 → t.kv = true) ∧
    (p.rst = false → ¬ (s.st = .idle ∧ p.cmdValid = true ∧ p.cmd = 0b01#2) → t.kv = s.kv)

/-- `DV` (rule R32): 0 at reset, cleared by an accepted block command and by a reset event, set by the
B micro-operation that completes round 32, changed by nothing else (NOP and SETKEY among it); output
`dv` shows it. -/
def Obligations.DataValidFlagRule : Prop :=
  State.reset.dv = false ∧
  ∀ (p : InPorts) (s t : State), coreStep p s = .next t →
    portDv t = t.dv ∧
    (p.rst = true → t.dv = false) ∧
    (p.rst = false → s.st = .idle → p.cmdValid = true → p.cmd = 0b10#2 ∨ p.cmd = 0b11#2 → t.dv = false) ∧
    (p.rst = false → s.st = .busy → s.phase = .b → s.rnd.toNat + 1 = 32 → t.dv = true) ∧
    (p.rst = false → ¬ (s.st = .idle ∧ p.cmdValid = true ∧ (p.cmd = 0b10#2 ∨ p.cmd = 0b11#2)) →
      ¬ (s.st = .busy ∧ s.phase = .b ∧ s.rnd.toNat + 1 = 32) → t.dv = s.dv)

/-- `MODE` (rule R30): ENC at reset, written by an accepted ENCIPHER (to ENC) and DECIPHER (to DEC) and
by a reset event, and by nothing else; no output port shows it. -/
def Obligations.ModeBitRule : Prop :=
  State.reset.mode = .enc ∧
  (∀ (s : State) (m : Mode), outputs { s with mode := m } = outputs s) ∧
  ∀ (p : InPorts) (s t : State), coreStep p s = .next t →
    (p.rst = true → t.mode = .enc) ∧
    (p.rst = false → s.st = .idle → p.cmdValid = true → p.cmd = 0b10#2 → t.mode = .enc) ∧
    (p.rst = false → s.st = .idle → p.cmdValid = true → p.cmd = 0b11#2 → t.mode = .dec) ∧
    (p.rst = false → ¬ (s.st = .idle ∧ p.cmdValid = true ∧ (p.cmd = 0b10#2 ∨ p.cmd = 0b11#2)) →
      t.mode = s.mode)

/-- No control depends on data (rule R123): two states with one control part, whatever their key,
block and accumulator, step to one control part, or fault alike. -/
def Obligations.ControlIndependentOfData : Prop :=
  ∀ (p : InPorts) (s s' : State), controlPart s = controlPart s' →
    (∀ t, coreStep p s = .next t → ∃ t', coreStep p s' = .next t' ∧ controlPart t' = controlPart t) ∧
    (∀ r, coreStep p s = .fault r → coreStep p s' = .fault r)

/-! ### Reset -/

/-- What `State.reset` holds of what rule R38 gives: `ST` = IDLE and the other control bits 0.  (The
values of `K`, `V0`, `V1` and `SUM` are the model's, notes/assumptions/2.md, and not stated.) -/
def Obligations.ResetStateControl : Prop :=
  controlPart State.reset = ⟨.idle, .enc, 0#6, .a, false, false⟩ ∧
  portCmdReady State.reset = true ∧ portDv State.reset = false ∧ readResult State.reset = none

/-- The reset event (rules R38, R170, R171): in every state, whatever the other inputs, the control
bits are cleared.  That the data registers, which "hold no value", take free values is the model's
form (notes/assumptions/3.md): a register holds what an unconstrained constant gives, and the
counter moves past what was drawn. -/
def Obligations.ResetEventClearsControl : Prop :=
  ∀ (p : InPorts) (s : State), p.rst = true → ∃ t, coreStep p s = .next t ∧
    controlPart t = ⟨.idle, .enc, 0#6, .a, false, false⟩ ∧ t.script = s.script ∧ t.results = s.results ∧
    ([t.k.k0, t.k.k1, t.k.k2, t.k.k3, t.v0, t.v1, t.sum] =
      (List.range 7).map fun j => Config.resetWord (s.freeNext + j)) ∧ t.freeNext = s.freeNext + 7

/-- A reset during a block operation aborts it (rules R171, R172): no result, the key lost, and no
block command completes until a SETKEY is accepted, however many steps without one follow. -/
def Obligations.ResetAbortsAndForgetsKey : Prop :=
  ∀ (p : InPorts) (ps : List InPorts) (s t : State), p.rst = true → s.st = .busy →
    coreStep p s = .next t → NoReset ps → (∀ q ∈ ps, q.cmdValid = true → q.cmd = 0b00#2) →
    ∃ u, coreRun ps t = .next u ∧ u.st = .idle ∧ u.dv = false ∧ u.kv = false ∧ readResult u = none ∧
      u.results = s.results ∧
      ∀ i : Instr, (blockCommand i).isSome → exec i u = .fault (.protocolViolation .noKey)

/-! ### Invariants -/

/-- The invariant (the seven items of rule R39, the spec's own derivation) at reset. -/
def Obligations.InvariantAtReset : Prop := StateInv Config.delta State.reset

/-- Every step keeps the invariant of rule R39, from every state that has it and under every host
behaviour. -/
def Obligations.StepKeepsInvariant : Prop :=
  ∀ s t : State, StateInv Config.delta s → step s = .next t → StateInv Config.delta t

/-- The seven items of rule R39 (the spec's own derivation): every state reachable from the reset state, by whatever the host does, has
them. -/
def Obligations.ReachableStatesSatisfyR39 : Prop :=
  ∀ (script : List HostAction) (n : Nat) (t : State),
    stepRun n ({ State.reset with script := script } : State) = .next t →
    StateInv Config.delta t

/-! ### Block operations -/

/-- The inverse law (rule R98; the second half and the bijections are the spec's own derivation there):
for every `DELTA` and key, deciphering undoes enciphering and
enciphering undoes deciphering, and both are bijections of the word pairs. -/
def Obligations.DecipherInvertsEncipher : Prop :=
  ∀ (delta : Word) (k : KeyFile),
    (∀ a b : Word, dec delta k (enc delta k a b).1 (enc delta k a b).2 = (a, b)) ∧
    (∀ a b : Word, enc delta k (dec delta k a b).1 (dec delta k a b).2 = (a, b)) ∧
    Function.Bijective (fun c : Word × Word => enc delta k c.1 c.2) ∧
    Function.Bijective (fun c : Word × Word => dec delta k c.1 c.2)

/-- The accumulator's trajectory (the spec's own derivation in rule R120): n micro-operations into a
block operation `SUM` is `DELTA` times the number of A half-rounds done (encipher), or times 32 less
that number (decipher), and until the 64th the sequencer stands at that half-round. -/
def Obligations.AccumulatorTrajectory : Prop :=
  ∀ (a b : Word) (s : State) (ps : List InPorts), s.st = .idle → s.kv = true → NoReset ps →
    ps.length ≤ 64 →
    (∃ t u, exec (.encipher a b) s = .next t ∧ coreRun ps t = .next u ∧ u.mode = .enc ∧
      u.sum = mul32 Config.delta (BitVec.ofNat 32 ((ps.length + 1) / 2)) ∧ u.rnd.toNat = ps.length / 2 ∧
      phaseNat u.phase = ps.length % 2 ∧ (u.st = .busy ↔ ps.length < 64)) ∧
    (∃ t u, exec (.decipher a b) s = .next t ∧ coreRun ps t = .next u ∧ u.mode = .dec ∧
      u.sum = mul32 Config.delta (BitVec.ofNat 32 (32 - (ps.length + 1) / 2)) ∧ u.rnd.toNat = ps.length / 2 ∧
      phaseNat u.phase = ps.length % 2 ∧ (u.st = .busy ↔ ps.length < 64))

/-- The block operations compute the block functions (rules R93, R94, R96, R97, and the spec's own
derivation in rule R119): from any idle state with a key the command is accepted, and 64 steps later,
whatever the host drives short of a reset, the whole state is the accepted one with `ENC` or `DEC` of
the key and the operands in `V0`, `V1`, `SUM` at its end, `RND` = 32, `PHASE` = 0, IDLE, `DV` = 1. -/
def Obligations.BlockOperationsComputeCipher : Prop :=
  ∀ (a b : Word) (s : State) (ps : List InPorts), s.st = .idle → s.kv = true → NoReset ps →
    ps.length = 64 →
    (∃ t, exec (.encipher a b) s = .next t ∧ t.k = s.k ∧ t.v0 = a ∧ t.v1 = b ∧ t.sum = 0 ∧
      controlPart t = ⟨.busy, .enc, 0#6, .a, true, false⟩ ∧
      coreRun ps t = .next (completed (enc Config.delta s.k a b) (mul32 Config.delta 32#32) t)) ∧
    (∃ t, exec (.decipher a b) s = .next t ∧ t.k = s.k ∧ t.v0 = a ∧ t.v1 = b ∧
      t.sum = mul32 Config.delta 32#32 ∧ controlPart t = ⟨.busy, .dec, 0#6, .a, true, false⟩ ∧
      coreRun ps t = .next (completed (dec Config.delta s.k a b) 0 t))

/-- Liveness (rule R183): an accepted block command starts an operation of 64 micro-operations; from
every busy state that has the invariant, an operation not reset completes after exactly its remaining
micro-operations and not before.  Conversely an operation is begun only by an accepted block command
with a key, and a result becomes valid only out of an operation in progress. -/
def Obligations.BlockOperationCompletes : Prop :=
  (∀ (i : Instr) (s : State), (blockCommand i).isSome → s.st = .idle → s.kv = true →
    ∃ t, exec i s = .next t ∧ t.st = .busy ∧ remaining t = 64 ∧ StateInv Config.delta t) ∧
  (∀ (s : State) (ps : List InPorts), StateInv Config.delta s → s.st = .busy → NoReset ps →
    (ps.length = remaining s → ∃ t, coreRun ps s = .next t ∧ t.st = .idle ∧ t.dv = true) ∧
    (ps.length < remaining s → ∃ t, coreRun ps s = .next t ∧ t.st = .busy ∧ t.dv = false)) ∧
  (∀ (p : InPorts) (s t : State), coreStep p s = .next t → s.st = .idle → t.st = .busy →
    p.rst = false ∧ p.cmdValid = true ∧ (p.cmd = 0b10#2 ∨ p.cmd = 0b11#2) ∧ s.kv = true) ∧
  (∀ (p : InPorts) (s t : State), coreStep p s = .next t → s.dv = false → t.dv = true → s.st = .busy)

/-- The result of a block operation depends on the key and the operands and on nothing else (rules
R36, R99, R174): two cores with one key, whatever else they hold and whatever their hosts drive
during the operation, give one result. -/
def Obligations.ResultDependsOnKeyAndOperandsOnly : Prop :=
  ∀ (i : Instr) (s s' : State) (ps ps' : List InPorts), (blockCommand i).isSome →
    s.st = .idle → s'.st = .idle → s.kv = true → s'.kv = true → s.k = s'.k →
    NoReset ps → NoReset ps' → ps.length = 64 → ps'.length = 64 →
    ∃ t t' u u', exec i s = .next t ∧ exec i s' = .next t' ∧ coreRun ps t = .next u ∧
      coreRun ps' t' = .next u' ∧ (readResult u).isSome ∧ readResult u = readResult u'

/-- The lifetime of a result (rules R57, R95, R179): as long as no reset and no block command comes,
an idle core keeps `V0`, `V1` and `dv`, whatever NOPs and SETKEYs it accepts. -/
def Obligations.ResultStaysUntilNextBlockCommand : Prop :=
  ∀ (s : State) (ps : List InPorts), s.st = .idle → NoReset ps → NoBlockCommand ps →
    ∃ t, coreRun ps s = .next t ∧ t.st = .idle ∧ t.v0 = s.v0 ∧ t.v1 = s.v1 ∧ t.dv = s.dv ∧
      readResult t = readResult s

/-- The key cannot be read back (rule R40): two idle cores that show the same ports and differ in
key, accumulator, mode, round count and `KV` show the same ports after any steps without reset and
without block command. -/
def Obligations.KeyNotReadBack : Prop :=
  ∀ (s s' : State) (ps : List InPorts), s.st = .idle → s'.st = .idle → s.dv = s'.dv → s.v0 = s'.v0 →
    s.v1 = s'.v1 → NoReset ps → NoBlockCommand ps →
    ∃ t t', coreRun ps s = .next t ∧ coreRun ps s' = .next t' ∧ portCmdReady t = portCmdReady t' ∧
      portDv t = portDv t' ∧ portDout0 t = portDout0 t' ∧ portDout1 t = portDout1 t'

/-! ### The host -/

/-- The host's script lines (rule R80): a command line is held while BUSY and done when accepted,
`WAIT` is done when `dv` is 1, a READ under `dv` = 1 gives the two result words, `RESET` asserts
`rst` for one step; and the core's part of each step is the core's step with the ports the line
drives. -/
def Obligations.ScriptLinesDrivePorts : Prop :=
  ∀ (s t : State) (a : HostAction) (rest : List HostAction), s.script = a :: rest → step s = .next t →
    (∃ u, coreStep (drivenPorts s) s = .next u ∧ t = { u with script := t.script, results := t.results }) ∧
    (∀ p, a = .drive p → drivenPorts s = p ∧ t.script = rest ∧ t.results = s.results) ∧
    (∀ p, a = .command p → drivenPorts s = { p with rst := false, cmdValid := true } ∧
      t.results = s.results ∧ t.script = if s.st = .idle then rest else a :: rest) ∧
    (a = .wait → (drivenPorts s).rst = false ∧ (drivenPorts s).cmdValid = false ∧
      t.results = s.results ∧ t.script = if t.dv then rest else a :: rest) ∧
    (a = .read → s.dv = true ∧ (drivenPorts s).rst = false ∧ (drivenPorts s).cmdValid = false ∧
      t.script = rest ∧ t.results = s.results ++ [(s.v0, s.v1)]) ∧
    (a = .reset → (drivenPorts s).rst = true ∧ t.script = rest ∧ t.results = s.results)

/-- A command presented while BUSY waits and then takes effect exactly once (rules R90, R177): the
line is still there, and the key untouched, when the operation completes, and the next step accepts
it. -/
def Obligations.HeldCommandTakesEffectOnce : Prop :=
  ∀ (s : State) (p : InPorts) (rest : List HostAction), StateInv Config.delta s → s.st = .busy →
    s.script = .command p :: rest →
    ∃ t, stepRun (remaining s) s = .next t ∧ t.st = .idle ∧ t.dv = true ∧
      t.k = s.k ∧ t.script = .command p :: rest ∧
      ∀ u, exec (decodeCmd p) t = .next u → step t = .next { u with script := rest }

/-- `encipher_block` and `decipher_block` as command lines (rules R81, R95): from an idle core with
a key, ENCIPHER (DECIPHER), WAIT and READ give the host the block function's value in 66 steps, and
leave the core idle with its key. -/
def Obligations.BlockScriptReadsCipher : Prop :=
  ∀ (s : State) (a b : Word) (rest : List HostAction), s.st = .idle → s.kv = true →
    (s.script = encipherBlockScript (a, b) ++ rest →
      ∃ t, stepRun 66 s = .next t ∧ t.results = s.results ++ [enc Config.delta s.k a b] ∧
        t.script = rest ∧ t.st = .idle ∧ t.dv = true ∧ t.kv = true ∧ t.k = s.k) ∧
    (s.script = decipherBlockScript (a, b) ++ rest →
      ∃ t, stepRun 66 s = .next t ∧ t.results = s.results ++ [dec Config.delta s.k a b] ∧
        t.script = rest ∧ t.st = .idle ∧ t.dv = true ∧ t.kv = true ∧ t.k = s.k)

/-! ### The adapter at the boundary -/

/-- Word decode (rule R132), as numbers. -/
def Obligations.WordDecodeFormulas : Prop :=
  ∀ b0 b1 b2 b3 : Byte,
    (decodeWord .be b0 b1 b2 b3).toNat =
      b0.toNat * 2 ^ 24 + b1.toNat * 2 ^ 16 + b2.toNat * 2 ^ 8 + b3.toNat ∧
    (decodeWord .le b0 b1 b2 b3).toNat =
      b3.toNat * 2 ^ 24 + b2.toNat * 2 ^ 16 + b1.toNat * 2 ^ 8 + b0.toNat

/-- Word encode (rule R133): the bytes of each order, the inverse of decode both ways, each order the
other reversed, the two equal exactly on palindromes. -/
def Obligations.WordEncodeInvertsDecode : Prop :=
  (∀ w : Word,
    (encodeWord .be w).map BitVec.toNat =
      [w.toNat / 2 ^ 24 % 256, w.toNat / 2 ^ 16 % 256, w.toNat / 2 ^ 8 % 256, w.toNat % 256] ∧
    (encodeWord .le w).map BitVec.toNat =
      [w.toNat % 256, w.toNat / 2 ^ 8 % 256, w.toNat / 2 ^ 16 % 256, w.toNat / 2 ^ 24 % 256] ∧
    encodeWord .be w = (encodeWord .le w).reverse ∧
    (encodeWord .be w = encodeWord .le w ↔ encodeWord .be w = (encodeWord .be w).reverse)) ∧
  (∀ (bo : ByteOrder) (w : Word) (b0 b1 b2 b3 : Byte),
    encodeWord bo w = [b0, b1, b2, b3] ↔ decodeWord bo b0 b1 b2 b3 = w)

/-- Chunk to block and back (rule R134): the first group is v0 under both byte orders. -/
def Obligations.ChunkIsBlockInBufferOrder : Prop :=
  ∀ (bo : ByteOrder) (c0 c1 c2 c3 c4 c5 c6 c7 : Byte) (r : Word × Word),
    chunks bo [c0, c1, c2, c3, c4, c5, c6, c7] =
      ([(decodeWord bo c0 c1 c2 c3, decodeWord bo c4 c5 c6 c7)], []) ∧
    encodeChunk bo r = encodeWord bo r.1 ++ encodeWord bo r.2

/-- The buffer calls (rules R135, R136, R138): a call errs exactly when the input is no whole number
of chunks or the lengths differ, and then the output buffer is untouched; otherwise the output buffer
is written whole, its bytes 8j to 8j+7 the encoded result of the block at bytes 8j to 8j+7 of the
input, for every chunk j. -/
def Obligations.BufferLengthChecked : Prop :=
  ∀ (delta : Word) (k : KeyFile) (input output : List Byte) (bo : ByteOrder) (call : BufferResult)
    (f : Word → Word → Word × Word),
    (call = encipherBuffer delta k input output bo ∧ f = enc delta k ∨
      call = decipherBuffer delta k input output bo ∧ f = dec delta k) →
    (call.error ≠ none ↔ input.length % 8 ≠ 0 ∨ output.length ≠ input.length) ∧
    (call.error ≠ none → call = ⟨output, some .invalidLength⟩) ∧
    call.output.length = output.length ∧
    (call.error = none → ∀ (j : Nat) (c0 c1 c2 c3 c4 c5 c6 c7 : Byte),
      (input.drop (8 * j)).take 8 = [c0, c1, c2, c3, c4, c5, c6, c7] →
      (call.output.drop (8 * j)).take 8 =
        encodeChunk bo (f (decodeWord bo c0 c1 c2 c3) (decodeWord bo c4 c5 c6 c7)))

/-- No chaining (rule R139): a buffer ciphers as its parts do, each by itself, and a chunk of eight
bytes as one block operation; for whatever block function, enciphering and deciphering alike. -/
def Obligations.BuffersDoNotChain : Prop :=
  (∀ (f : Word → Word → Word × Word) (x y ox oy : List Byte) (bo : ByteOrder),
    x.length % 8 = 0 → y.length % 8 = 0 → ox.length = x.length → oy.length = y.length →
    (cipherBuffer f (x ++ y) (ox ++ oy) bo).output =
      (cipherBuffer f x ox bo).output ++ (cipherBuffer f y oy bo).output) ∧
  (∀ (f : Word → Word → Word × Word) (c0 c1 c2 c3 c4 c5 c6 c7 : Byte) (o : List Byte) (bo : ByteOrder),
    o.length = 8 → cipherBuffer f [c0, c1, c2, c3, c4, c5, c6, c7] o bo =
      ⟨encodeChunk bo (f (decodeWord bo c0 c1 c2 c3) (decodeWord bo c4 c5 c6 c7)), none⟩)

/-- Endianness symmetry, the half that is a law (rule R140): with one byte order, deciphering the
enciphered buffer gives the buffer back, and so does enciphering the deciphered one. -/
def Obligations.BufferRoundTrip : Prop :=
  ∀ (delta : Word) (k : KeyFile) (input o1 o2 : List Byte) (bo : ByteOrder),
    input.length % 8 = 0 → o1.length = input.length → o2.length = input.length →
    decipherBuffer delta k (encipherBuffer delta k input o1 bo).output o2 bo = ⟨input, none⟩ ∧
    encipherBuffer delta k (decipherBuffer delta k input o1 bo).output o2 bo = ⟨input, none⟩

/-- Streams (rule R137): the whole chunks come out as the buffer call gives them; a partial chunk at
the end is `IncompleteBlock`; an I/O error of source or sink is passed on, with the chunks before it
written. -/
def Obligations.StreamsWriteWholeChunks : Prop :=
  ∀ (f : Word → Word → Word × Word) (bo : ByteOrder) (src : List Byte) (cause : Nat) (n : Nat),
    cipherStream f bo src none none =
      ⟨(cipherBuffer f (src.take (src.length / 8 * 8)) (src.take (src.length / 8 * 8)) bo).output,
        if src.length % 8 = 0 then none else some .incompleteBlock⟩ ∧
    cipherStream f bo src (some cause) none =
      ⟨(cipherBuffer f (src.take (src.length / 8 * 8)) (src.take (src.length / 8 * 8)) bo).output,
        some (.ioFailure cause)⟩ ∧
    (n < src.length / 8 → cipherStream f bo src none (some (n, cause)) =
      ⟨(cipherBuffer f (src.take (n * 8)) (src.take (n * 8)) bo).output, some (.ioFailure cause)⟩)

/-- A buffer call run on the core (rules R81, R135, R136): its command lines, started on an idle core
with a key, give the host one result a chunk in 66 steps each, and what the call leaves, given those
results, is what the buffer function gives.  A call whose lengths are wrong has no command line and
leaves the error and the output buffer untouched. -/
def Obligations.BufferScriptMatchesFunction : Prop :=
  ∀ (s : State) (bo : ByteOrder) (input output : List Byte) (rest : List HostAction),
    s.st = .idle → s.kv = true →
    (s.script = encipherBufferScript bo input output ++ rest →
      ∃ (t : State) (rs : List (Word × Word)), stepRun (66 * rs.length) s = .next t ∧
        rs.length = (if input.length % 8 = 0 ∧ output.length = input.length then input.length / 8 else 0) ∧
        t.results = s.results ++ rs ∧ t.script = rest ∧ t.k = s.k ∧
        bufferOutcome input output bo rs = encipherBuffer Config.delta s.k input output bo) ∧
    (s.script = decipherBufferScript bo input output ++ rest →
      ∃ (t : State) (rs : List (Word × Word)), stepRun (66 * rs.length) s = .next t ∧
        rs.length = (if input.length % 8 = 0 ∧ output.length = input.length then input.length / 8 else 0) ∧
        t.results = s.results ++ rs ∧ t.script = rest ∧ t.k = s.k ∧
        bufferOutcome input output bo rs = decipherBuffer Config.delta s.k input output bo)

/-- A stream call run on the core (rules R81, R137): its command lines, started on an idle core with a
key, give the host one result for each chunk it ciphers (all whole chunks of the source, or up to the
one whose write fails), and what the call leaves, given those results, is what the stream function
gives, whatever I/O error there is (their order: the model's choice, notes/assumptions/10.md). -/
def Obligations.StreamScriptMatchesFunction : Prop :=
  ∀ (s : State) (bo : ByteOrder) (source : List Byte) (srcFails : Option Nat)
    (sinkFails : Option (Nat × Nat)) (rest : List HostAction), s.st = .idle → s.kv = true →
    (s.script = encipherStreamScript bo source sinkFails ++ rest →
      ∃ (t : State) (rs : List (Word × Word)), stepRun (66 * rs.length) s = .next t ∧
        (sinkFails = none → rs.length = source.length / 8) ∧
        (∀ n e, sinkFails = some (n, e) → rs.length = min (n + 1) (source.length / 8)) ∧
        t.results = s.results ++ rs ∧ t.script = rest ∧ t.k = s.k ∧
        streamOutcome bo source srcFails sinkFails rs =
          encipherStream Config.delta s.k bo source srcFails sinkFails) ∧
    (s.script = decipherStreamScript bo source sinkFails ++ rest →
      ∃ (t : State) (rs : List (Word × Word)), stepRun (66 * rs.length) s = .next t ∧
        (sinkFails = none → rs.length = source.length / 8) ∧
        (∀ n e, sinkFails = some (n, e) → rs.length = min (n + 1) (source.length / 8)) ∧
        t.results = s.results ++ rs ∧ t.script = rest ∧ t.k = s.k ∧
        streamOutcome bo source srcFails sinkFails rs =
          decipherStream Config.delta s.k bo source srcFails sinkFails)

/-! ### The parameter DELTA -/

/-- `DELTA` is an argument with the default of rule R7: `exec` and `step` are the machine at that
default; `DELTA` acts on `SUM` alone, in ENC_A, DEC_A and the acceptance of DECIPHER; and at every
`DELTA` a step keeps the invariant of rule R39 and the block operations compute the block functions
of that `DELTA` (rules R93, R94, R119). -/
def Obligations.MachineAtEveryDelta : Prop :=
  (∀ (i : Instr) (s : State), exec i s = execWith Config.delta i s) ∧
  (∀ s : State, step s = machineStep s Config.delta) ∧
  ∀ delta : Word,
    (∀ (i : Instr) (s : State), i ≠ .encA → i ≠ .decA → (∀ a b, i ≠ .decipher a b) →
      execWith delta i s = exec i s) ∧
    (∀ s : State,
      (∃ t, exec .encA s = .next t ∧ execWith delta .encA s = .next { t with sum := s.sum + delta }) ∧
      (∃ t, exec .decA s = .next t ∧ execWith delta .decA s = .next { t with sum := s.sum - delta }) ∧
      (∀ a b : Word, s.st = .idle → s.kv = true → ∃ t, exec (.decipher a b) s = .next t ∧
        execWith delta (.decipher a b) s = .next { t with sum := delta * 32 })) ∧
    (∀ s t : State, StateInv delta s → machineStep s delta = .next t → StateInv delta t) ∧
    (∀ (a b : Word) (s : State) (ps : List InPorts), s.st = .idle → s.kv = true → NoReset ps →
      ps.length = 64 →
      (∃ t, execWith delta (.encipher a b) s = .next t ∧
        coreRun ps t delta = .next (completed (enc delta s.k a b) (mul32 delta 32#32) t)) ∧
      (∃ t, execWith delta (.decipher a b) s = .next t ∧
        coreRun ps t delta = .next (completed (dec delta s.k a b) 0 t)))

/-! ### Runs -/

/-- Runs (rule R184), for every `DELTA`: the end state is a state the script's steps reach from reset
with its last line performed and `ST` = IDLE; there is one at most; a run that reaches such a state
ends in it; a run that contains a protocol violation has none; and the observable end state is
`cmd_ready`, `dv` and, if `dv` = 1, the two result words. -/
def Obligations.RunHasOneEndState : Prop :=
  ∀ (delta : Word) (script : List HostAction),
    (∀ t, RunEndsIn script t delta →
      t.script = [] ∧ t.st = .idle ∧ (∃ n, stepRun n (runStart script) delta = .next t) ∧
      (∀ u, RunEndsIn script u delta → u = t) ∧
      observe t = { cmdReady := true, dv := t.dv, dout := if t.dv then some (t.v0, t.v1) else none }) ∧
    (∀ n t, stepRun n (runStart script) delta = .next t → t.script = [] → t.st = .idle →
      RunEndsIn script t delta) ∧
    (∀ n r, stepRun n (runStart script) delta = .fault r → ¬ ∃ t, RunEndsIn script t delta)

/-- The run of a construction and a block command (rules R184, R81, R92, R173), with or without the
lines that read the result: it ends with the key held and shows the block function's value.  Without
the construction it has no end state. -/
def Obligations.KeyedRunShowsCipher : Prop :=
  ∀ (k : KeyFile) (a b : Word),
    (∃ t, RunEndsIn (constructScript k ++ [commandLine (.encipher a b)]) t ∧ t.k = k ∧
      observe t = { cmdReady := true, dv := true, dout := some (enc Config.delta k a b) }) ∧
    (∃ t, RunEndsIn (constructScript k ++ [commandLine (.decipher a b)]) t ∧ t.k = k ∧
      observe t = { cmdReady := true, dv := true, dout := some (dec Config.delta k a b) }) ∧
    (∃ t, RunEndsIn (constructScript k ++ encipherBlockScript (a, b)) t ∧ t.k = k ∧
      t.results = [enc Config.delta k a b] ∧
      observe t = { cmdReady := true, dv := true, dout := some (enc Config.delta k a b) }) ∧
    (∃ t, RunEndsIn (constructScript k ++ decipherBlockScript (a, b)) t ∧ t.k = k ∧
      t.results = [dec Config.delta k a b] ∧
      observe t = { cmdReady := true, dv := true, dout := some (dec Config.delta k a b) }) ∧
    (¬ ∃ t, RunEndsIn (encipherBlockScript (a, b)) t) ∧ ¬ ∃ t, RunEndsIn (decipherBlockScript (a, b)) t
end

