-- ==== Sys2Proof/Laws/State.lean ====
section
/-! SUPPORT. What each named operation leaves in each field of the state: one lemma per field per
operation, so that a proof reads a field of an updated state without unfolding the update. -/

namespace Sys2Proof.Machine

@[simp] theorem endPhaseA_k (s : State) : (endPhaseA s).k = s.k := rfl
@[simp] theorem endPhaseA_v0 (s : State) : (endPhaseA s).v0 = s.v0 := rfl
@[simp] theorem endPhaseA_v1 (s : State) : (endPhaseA s).v1 = s.v1 := rfl
@[simp] theorem endPhaseA_sum (s : State) : (endPhaseA s).sum = s.sum := rfl
@[simp] theorem endPhaseA_st (s : State) : (endPhaseA s).st = s.st := rfl
@[simp] theorem endPhaseA_mode (s : State) : (endPhaseA s).mode = s.mode := rfl
@[simp] theorem endPhaseA_rnd (s : State) : (endPhaseA s).rnd = s.rnd := rfl
@[simp] theorem endPhaseA_phase (s : State) : (endPhaseA s).phase = .b := rfl
@[simp] theorem endPhaseA_kv (s : State) : (endPhaseA s).kv = s.kv := rfl
@[simp] theorem endPhaseA_dv (s : State) : (endPhaseA s).dv = s.dv := rfl
@[simp] theorem endPhaseA_script (s : State) : (endPhaseA s).script = s.script := rfl
@[simp] theorem endPhaseA_results (s : State) : (endPhaseA s).results = s.results := rfl
@[simp] theorem endPhaseA_freeNext (s : State) : (endPhaseA s).freeNext = s.freeNext := rfl

@[simp] theorem endPhaseB_k (s : State) : (endPhaseB s).k = s.k := rfl
@[simp] theorem endPhaseB_v0 (s : State) : (endPhaseB s).v0 = s.v0 := rfl
@[simp] theorem endPhaseB_v1 (s : State) : (endPhaseB s).v1 = s.v1 := rfl
@[simp] theorem endPhaseB_sum (s : State) : (endPhaseB s).sum = s.sum := rfl
@[simp] theorem endPhaseB_st (s : State) : (endPhaseB s).st = if completes s.rnd then .idle else s.st := rfl
@[simp] theorem endPhaseB_mode (s : State) : (endPhaseB s).mode = s.mode := rfl
@[simp] theorem endPhaseB_rnd (s : State) : (endPhaseB s).rnd = s.rnd + 1#6 := rfl
@[simp] theorem endPhaseB_phase (s : State) : (endPhaseB s).phase = .a := rfl
@[simp] theorem endPhaseB_kv (s : State) : (endPhaseB s).kv = s.kv := rfl
@[simp] theorem endPhaseB_dv (s : State) : (endPhaseB s).dv = if completes s.rnd then true else s.dv := rfl
@[simp] theorem endPhaseB_script (s : State) : (endPhaseB s).script = s.script := rfl
@[simp] theorem endPhaseB_results (s : State) : (endPhaseB s).results = s.results := rfl
@[simp] theorem endPhaseB_freeNext (s : State) : (endPhaseB s).freeNext = s.freeNext := rfl

@[simp] theorem beginBlock_k (m : Mode) (s : State) : (beginBlock m s).k = s.k := rfl
@[simp] theorem beginBlock_v0 (m : Mode) (s : State) : (beginBlock m s).v0 = s.v0 := rfl
@[simp] theorem beginBlock_v1 (m : Mode) (s : State) : (beginBlock m s).v1 = s.v1 := rfl
@[simp] theorem beginBlock_sum (m : Mode) (s : State) : (beginBlock m s).sum = s.sum := rfl
@[simp] theorem beginBlock_st (m : Mode) (s : State) : (beginBlock m s).st = .busy := rfl
@[simp] theorem beginBlock_mode (m : Mode) (s : State) : (beginBlock m s).mode = m := rfl
@[simp] theorem beginBlock_rnd (m : Mode) (s : State) : (beginBlock m s).rnd = 0#6 := rfl
@[simp] theorem beginBlock_phase (m : Mode) (s : State) : (beginBlock m s).phase = .a := rfl
@[simp] theorem beginBlock_kv (m : Mode) (s : State) : (beginBlock m s).kv = s.kv := rfl
@[simp] theorem beginBlock_dv (m : Mode) (s : State) : (beginBlock m s).dv = false := rfl
@[simp] theorem beginBlock_script (m : Mode) (s : State) : (beginBlock m s).script = s.script := rfl
@[simp] theorem beginBlock_results (m : Mode) (s : State) : (beginBlock m s).results = s.results := rfl
@[simp] theorem beginBlock_freeNext (m : Mode) (s : State) : (beginBlock m s).freeNext = s.freeNext := rfl

@[simp] theorem clearControl_k (s : State) : (clearControl s).k = s.k := rfl
@[simp] theorem clearControl_v0 (s : State) : (clearControl s).v0 = s.v0 := rfl
@[simp] theorem clearControl_v1 (s : State) : (clearControl s).v1 = s.v1 := rfl
@[simp] theorem clearControl_sum (s : State) : (clearControl s).sum = s.sum := rfl
@[simp] theorem clearControl_st (s : State) : (clearControl s).st = .idle := rfl
@[simp] theorem clearControl_mode (s : State) : (clearControl s).mode = .enc := rfl
@[simp] theorem clearControl_rnd (s : State) : (clearControl s).rnd = 0#6 := rfl
@[simp] theorem clearControl_phase (s : State) : (clearControl s).phase = .a := rfl
@[simp] theorem clearControl_kv (s : State) : (clearControl s).kv = false := rfl
@[simp] theorem clearControl_dv (s : State) : (clearControl s).dv = false := rfl
@[simp] theorem clearControl_script (s : State) : (clearControl s).script = s.script := rfl
@[simp] theorem clearControl_results (s : State) : (clearControl s).results = s.results := rfl
@[simp] theorem clearControl_freeNext (s : State) : (clearControl s).freeNext = s.freeNext := rfl

@[simp] theorem writeKey_k (k0 k1 k2 k3 : Word) (s : State) :
    (writeKey k0 k1 k2 k3 s).k = { k0 := k0, k1 := k1, k2 := k2, k3 := k3 } := rfl
@[simp] theorem writeKey_v0 (k0 k1 k2 k3 : Word) (s : State) : (writeKey k0 k1 k2 k3 s).v0 = s.v0 := rfl
@[simp] theorem writeKey_v1 (k0 k1 k2 k3 : Word) (s : State) : (writeKey k0 k1 k2 k3 s).v1 = s.v1 := rfl
@[simp] theorem writeKey_sum (k0 k1 k2 k3 : Word) (s : State) : (writeKey k0 k1 k2 k3 s).sum = s.sum := rfl
@[simp] theorem writeKey_st (k0 k1 k2 k3 : Word) (s : State) : (writeKey k0 k1 k2 k3 s).st = s.st := rfl
@[simp] theorem writeKey_mode (k0 k1 k2 k3 : Word) (s : State) : (writeKey k0 k1 k2 k3 s).mode = s.mode := rfl
@[simp] theorem writeKey_rnd (k0 k1 k2 k3 : Word) (s : State) : (writeKey k0 k1 k2 k3 s).rnd = s.rnd := rfl
@[simp] theorem writeKey_phase (k0 k1 k2 k3 : Word) (s : State) :
    (writeKey k0 k1 k2 k3 s).phase = s.phase := rfl
@[simp] theorem writeKey_kv (k0 k1 k2 k3 : Word) (s : State) : (writeKey k0 k1 k2 k3 s).kv = true := rfl
@[simp] theorem writeKey_dv (k0 k1 k2 k3 : Word) (s : State) : (writeKey k0 k1 k2 k3 s).dv = s.dv := rfl
@[simp] theorem writeKey_script (k0 k1 k2 k3 : Word) (s : State) :
    (writeKey k0 k1 k2 k3 s).script = s.script := rfl
@[simp] theorem writeKey_results (k0 k1 k2 k3 : Word) (s : State) :
    (writeKey k0 k1 k2 k3 s).results = s.results := rfl
@[simp] theorem writeKey_freeNext (k0 k1 k2 k3 : Word) (s : State) :
    (writeKey k0 k1 k2 k3 s).freeNext = s.freeNext := rfl

@[simp] theorem loadBlock_k (a b sum0 : Word) (s : State) : (loadBlock a b sum0 s).k = s.k := rfl
@[simp] theorem loadBlock_v0 (a b sum0 : Word) (s : State) : (loadBlock a b sum0 s).v0 = a := rfl
@[simp] theorem loadBlock_v1 (a b sum0 : Word) (s : State) : (loadBlock a b sum0 s).v1 = b := rfl
@[simp] theorem loadBlock_sum (a b sum0 : Word) (s : State) : (loadBlock a b sum0 s).sum = sum0 := rfl
@[simp] theorem loadBlock_st (a b sum0 : Word) (s : State) : (loadBlock a b sum0 s).st = s.st := rfl
@[simp] theorem loadBlock_mode (a b sum0 : Word) (s : State) : (loadBlock a b sum0 s).mode = s.mode := rfl
@[simp] theorem loadBlock_rnd (a b sum0 : Word) (s : State) : (loadBlock a b sum0 s).rnd = s.rnd := rfl
@[simp] theorem loadBlock_phase (a b sum0 : Word) (s : State) : (loadBlock a b sum0 s).phase = s.phase := rfl
@[simp] theorem loadBlock_kv (a b sum0 : Word) (s : State) : (loadBlock a b sum0 s).kv = s.kv := rfl
@[simp] theorem loadBlock_dv (a b sum0 : Word) (s : State) : (loadBlock a b sum0 s).dv = s.dv := rfl
@[simp] theorem loadBlock_script (a b sum0 : Word) (s : State) : (loadBlock a b sum0 s).script = s.script := rfl
@[simp] theorem loadBlock_results (a b sum0 : Word) (s : State) :
    (loadBlock a b sum0 s).results = s.results := rfl
@[simp] theorem loadBlock_freeNext (a b sum0 : Word) (s : State) :
    (loadBlock a b sum0 s).freeNext = s.freeNext := rfl

@[simp] theorem resetEvent_k (s : State) :
    (resetEvent s).k = { k0 := Config.resetWord s.freeNext, k1 := Config.resetWord (s.freeNext + 1), k2 := Config.resetWord (s.freeNext + 2), k3 := Config.resetWord (s.freeNext + 3) } := rfl
@[simp] theorem resetEvent_v0 (s : State) : (resetEvent s).v0 = Config.resetWord (s.freeNext + 4) := rfl
@[simp] theorem resetEvent_v1 (s : State) : (resetEvent s).v1 = Config.resetWord (s.freeNext + 5) := rfl
@[simp] theorem resetEvent_sum (s : State) : (resetEvent s).sum = Config.resetWord (s.freeNext + 6) := rfl
@[simp] theorem resetEvent_st (s : State) : (resetEvent s).st = .idle := rfl
@[simp] theorem resetEvent_mode (s : State) : (resetEvent s).mode = .enc := rfl
@[simp] theorem resetEvent_rnd (s : State) : (resetEvent s).rnd = 0#6 := rfl
@[simp] theorem resetEvent_phase (s : State) : (resetEvent s).phase = .a := rfl
@[simp] theorem resetEvent_kv (s : State) : (resetEvent s).kv = false := rfl
@[simp] theorem resetEvent_dv (s : State) : (resetEvent s).dv = false := rfl
@[simp] theorem resetEvent_script (s : State) : (resetEvent s).script = s.script := rfl
@[simp] theorem resetEvent_results (s : State) : (resetEvent s).results = s.results := rfl
@[simp] theorem resetEvent_freeNext (s : State) : (resetEvent s).freeNext = s.freeNext + 7 := rfl

@[simp] theorem encHalfA_k (delta : Word) (s : State) : (encHalfA delta s).k = s.k := rfl
@[simp] theorem encHalfA_v0 (delta : Word) (s : State) :
    (encHalfA delta s).v0 = add32 s.v0 (xor32 (mixF s.v1) (keyTermA s.k s.sum)) := rfl
@[simp] theorem encHalfA_v1 (delta : Word) (s : State) : (encHalfA delta s).v1 = s.v1 := rfl
@[simp] theorem encHalfA_sum (delta : Word) (s : State) : (encHalfA delta s).sum = add32 s.sum delta := rfl
@[simp] theorem encHalfA_st (delta : Word) (s : State) : (encHalfA delta s).st = s.st := rfl
@[simp] theorem encHalfA_mode (delta : Word) (s : State) : (encHalfA delta s).mode = s.mode := rfl
@[simp] theorem encHalfA_rnd (delta : Word) (s : State) : (encHalfA delta s).rnd = s.rnd := rfl
@[simp] theorem encHalfA_phase (delta : Word) (s : State) : (encHalfA delta s).phase = .b := rfl
@[simp] theorem encHalfA_kv (delta : Word) (s : State) : (encHalfA delta s).kv = s.kv := rfl
@[simp] theorem encHalfA_dv (delta : Word) (s : State) : (encHalfA delta s).dv = s.dv := rfl
@[simp] theorem encHalfA_script (delta : Word) (s : State) : (encHalfA delta s).script = s.script := rfl
@[simp] theorem encHalfA_results (delta : Word) (s : State) : (encHalfA delta s).results = s.results := rfl
@[simp] theorem encHalfA_freeNext (delta : Word) (s : State) : (encHalfA delta s).freeNext = s.freeNext := rfl

@[simp] theorem encHalfB_k (s : State) : (encHalfB s).k = s.k := rfl
@[simp] theorem encHalfB_v0 (s : State) : (encHalfB s).v0 = s.v0 := rfl
@[simp] theorem encHalfB_v1 (s : State) :
    (encHalfB s).v1 = add32 s.v1 (xor32 (mixF s.v0) (keyTermB s.k s.sum)) := rfl
@[simp] theorem encHalfB_sum (s : State) : (encHalfB s).sum = s.sum := rfl
@[simp] theorem encHalfB_st (s : State) : (encHalfB s).st = if completes s.rnd then .idle else s.st := rfl
@[simp] theorem encHalfB_mode (s : State) : (encHalfB s).mode = s.mode := rfl
@[simp] theorem encHalfB_rnd (s : State) : (encHalfB s).rnd = s.rnd + 1#6 := rfl
@[simp] theorem encHalfB_phase (s : State) : (encHalfB s).phase = .a := rfl
@[simp] theorem encHalfB_kv (s : State) : (encHalfB s).kv = s.kv := rfl
@[simp] theorem encHalfB_dv (s : State) : (encHalfB s).dv = if completes s.rnd then true else s.dv := rfl
@[simp] theorem encHalfB_script (s : State) : (encHalfB s).script = s.script := rfl
@[simp] theorem encHalfB_results (s : State) : (encHalfB s).results = s.results := rfl
@[simp] theorem encHalfB_freeNext (s : State) : (encHalfB s).freeNext = s.freeNext := rfl

@[simp] theorem decHalfA_k (delta : Word) (s : State) : (decHalfA delta s).k = s.k := rfl
@[simp] theorem decHalfA_v0 (delta : Word) (s : State) : (decHalfA delta s).v0 = s.v0 := rfl
@[simp] theorem decHalfA_v1 (delta : Word) (s : State) :
    (decHalfA delta s).v1 = sub32 s.v1 (xor32 (mixF s.v0) (keyTermB s.k s.sum)) := rfl
@[simp] theorem decHalfA_sum (delta : Word) (s : State) : (decHalfA delta s).sum = sub32 s.sum delta := rfl
@[simp] theorem decHalfA_st (delta : Word) (s : State) : (decHalfA delta s).st = s.st := rfl
@[simp] theorem decHalfA_mode (delta : Word) (s : State) : (decHalfA delta s).mode = s.mode := rfl
@[simp] theorem decHalfA_rnd (delta : Word) (s : State) : (decHalfA delta s).rnd = s.rnd := rfl
@[simp] theorem decHalfA_phase (delta : Word) (s : State) : (decHalfA delta s).phase = .b := rfl
@[simp] theorem decHalfA_kv (delta : Word) (s : State) : (decHalfA delta s).kv = s.kv := rfl
@[simp] theorem decHalfA_dv (delta : Word) (s : State) : (decHalfA delta s).dv = s.dv := rfl
@[simp] theorem decHalfA_script (delta : Word) (s : State) : (decHalfA delta s).script = s.script := rfl
@[simp] theorem decHalfA_results (delta : Word) (s : State) : (decHalfA delta s).results = s.results := rfl
@[simp] theorem decHalfA_freeNext (delta : Word) (s : State) : (decHalfA delta s).freeNext = s.freeNext := rfl

@[simp] theorem decHalfB_k (s : State) : (decHalfB s).k = s.k := rfl
@[simp] theorem decHalfB_v0 (s : State) :
    (decHalfB s).v0 = sub32 s.v0 (xor32 (mixF s.v1) (keyTermA s.k s.sum)) := rfl
@[simp] theorem decHalfB_v1 (s : State) : (decHalfB s).v1 = s.v1 := rfl
@[simp] theorem decHalfB_sum (s : State) : (decHalfB s).sum = s.sum := rfl
@[simp] theorem decHalfB_st (s : State) : (decHalfB s).st = if completes s.rnd then .idle else s.st := rfl
@[simp] theorem decHalfB_mode (s : State) : (decHalfB s).mode = s.mode := rfl
@[simp] theorem decHalfB_rnd (s : State) : (decHalfB s).rnd = s.rnd + 1#6 := rfl
@[simp] theorem decHalfB_phase (s : State) : (decHalfB s).phase = .a := rfl
@[simp] theorem decHalfB_kv (s : State) : (decHalfB s).kv = s.kv := rfl
@[simp] theorem decHalfB_dv (s : State) : (decHalfB s).dv = if completes s.rnd then true else s.dv := rfl
@[simp] theorem decHalfB_script (s : State) : (decHalfB s).script = s.script := rfl
@[simp] theorem decHalfB_results (s : State) : (decHalfB s).results = s.results := rfl
@[simp] theorem decHalfB_freeNext (s : State) : (decHalfB s).freeNext = s.freeNext := rfl

@[simp] theorem completed_k (r : Word × Word) (e : Word) (s : State) : (completed r e s).k = s.k := rfl
@[simp] theorem completed_v0 (r : Word × Word) (e : Word) (s : State) : (completed r e s).v0 = r.1 := rfl
@[simp] theorem completed_v1 (r : Word × Word) (e : Word) (s : State) : (completed r e s).v1 = r.2 := rfl
@[simp] theorem completed_sum (r : Word × Word) (e : Word) (s : State) : (completed r e s).sum = e := rfl
@[simp] theorem completed_st (r : Word × Word) (e : Word) (s : State) : (completed r e s).st = .idle := rfl
@[simp] theorem completed_mode (r : Word × Word) (e : Word) (s : State) : (completed r e s).mode = s.mode := rfl
@[simp] theorem completed_rnd (r : Word × Word) (e : Word) (s : State) : (completed r e s).rnd = 32#6 := rfl
@[simp] theorem completed_phase (r : Word × Word) (e : Word) (s : State) : (completed r e s).phase = .a := rfl
@[simp] theorem completed_kv (r : Word × Word) (e : Word) (s : State) : (completed r e s).kv = s.kv := rfl
@[simp] theorem completed_dv (r : Word × Word) (e : Word) (s : State) : (completed r e s).dv = true := rfl
@[simp] theorem completed_script (r : Word × Word) (e : Word) (s : State) :
    (completed r e s).script = s.script := rfl
@[simp] theorem completed_results (r : Word × Word) (e : Word) (s : State) :
    (completed r e s).results = s.results := rfl
@[simp] theorem completed_freeNext (r : Word × Word) (e : Word) (s : State) :
    (completed r e s).freeNext = s.freeNext := rfl

@[simp] theorem hostAdvance_k (s t : State) : (hostAdvance s t).k = t.k := rfl
@[simp] theorem hostAdvance_v0 (s t : State) : (hostAdvance s t).v0 = t.v0 := rfl
@[simp] theorem hostAdvance_v1 (s t : State) : (hostAdvance s t).v1 = t.v1 := rfl
@[simp] theorem hostAdvance_sum (s t : State) : (hostAdvance s t).sum = t.sum := rfl
@[simp] theorem hostAdvance_st (s t : State) : (hostAdvance s t).st = t.st := rfl
@[simp] theorem hostAdvance_mode (s t : State) : (hostAdvance s t).mode = t.mode := rfl
@[simp] theorem hostAdvance_rnd (s t : State) : (hostAdvance s t).rnd = t.rnd := rfl
@[simp] theorem hostAdvance_phase (s t : State) : (hostAdvance s t).phase = t.phase := rfl
@[simp] theorem hostAdvance_kv (s t : State) : (hostAdvance s t).kv = t.kv := rfl
@[simp] theorem hostAdvance_dv (s t : State) : (hostAdvance s t).dv = t.dv := rfl
@[simp] theorem hostAdvance_script (s t : State) : (hostAdvance s t).script = scriptAfter s t := rfl
@[simp] theorem hostAdvance_results (s t : State) : (hostAdvance s t).results = resultsAfter s := rfl
@[simp] theorem hostAdvance_freeNext (s t : State) : (hostAdvance s t).freeNext = t.freeNext := rfl

@[simp] theorem placeCommand_k (p : InPorts) (s : State) : (placeCommand p s).k = s.k := rfl
@[simp] theorem placeCommand_v0 (p : InPorts) (s : State) : (placeCommand p s).v0 = s.v0 := rfl
@[simp] theorem placeCommand_v1 (p : InPorts) (s : State) : (placeCommand p s).v1 = s.v1 := rfl
@[simp] theorem placeCommand_sum (p : InPorts) (s : State) : (placeCommand p s).sum = s.sum := rfl
@[simp] theorem placeCommand_st (p : InPorts) (s : State) : (placeCommand p s).st = .idle := rfl
@[simp] theorem placeCommand_mode (p : InPorts) (s : State) : (placeCommand p s).mode = s.mode := rfl
@[simp] theorem placeCommand_rnd (p : InPorts) (s : State) : (placeCommand p s).rnd = s.rnd := rfl
@[simp] theorem placeCommand_phase (p : InPorts) (s : State) : (placeCommand p s).phase = s.phase := rfl
@[simp] theorem placeCommand_kv (p : InPorts) (s : State) : (placeCommand p s).kv = s.kv := rfl
@[simp] theorem placeCommand_dv (p : InPorts) (s : State) : (placeCommand p s).dv = s.dv := rfl
@[simp] theorem placeCommand_script (p : InPorts) (s : State) :
    (placeCommand p s).script = .drive p :: s.script := rfl
@[simp] theorem placeCommand_results (p : InPorts) (s : State) : (placeCommand p s).results = s.results := rfl
@[simp] theorem placeCommand_freeNext (p : InPorts) (s : State) :
    (placeCommand p s).freeNext = s.freeNext := rfl

@[simp] theorem reset_k : State.reset.k = { k0 := 0#32, k1 := 0#32, k2 := 0#32, k3 := 0#32 } := rfl
@[simp] theorem reset_v0 : State.reset.v0 = 0#32 := rfl
@[simp] theorem reset_v1 : State.reset.v1 = 0#32 := rfl
@[simp] theorem reset_sum : State.reset.sum = 0#32 := rfl
@[simp] theorem reset_st : State.reset.st = .idle := rfl
@[simp] theorem reset_mode : State.reset.mode = .enc := rfl
@[simp] theorem reset_rnd : State.reset.rnd = 0#6 := rfl
@[simp] theorem reset_phase : State.reset.phase = .a := rfl
@[simp] theorem reset_kv : State.reset.kv = false := rfl
@[simp] theorem reset_dv : State.reset.dv = false := rfl
@[simp] theorem reset_script : State.reset.script = [] := rfl
@[simp] theorem reset_results : State.reset.results = [] := rfl
@[simp] theorem reset_freeNext : State.reset.freeNext = 0 := rfl

end Sys2Proof.Machine
end

