-- ==== Sys2Proof/Laws/Ops.lean ====
section
/-! SUPPORT. What each shared operation can do, said once: the acceptance guard, a block command's
acceptance, the key read, an instruction, a step of the core, a run of the core, a step of core and
host, a run from reset, an adapter's call.  What takes `DELTA` is stated for every `DELTA`.  Later proofs cite these and unfold none of the operations. -/

namespace Sys2Proof.Machine

/-! ### Acceptance (rules R90, R156) -/

theorem accept_idle {s : State} (h : s.st = .idle) (f : State → Host.Outcome State Fault Refusal) :
    accept s f = f s := by
  simp [accept, h]

theorem accept_busy {s : State} (h : s.st = .busy) (f : State → Host.Outcome State Fault Refusal) :
    accept s f = .next s := by
  simp [accept, h]

theorem acceptBlock_key {s : State} (h : s.kv = true) (m : Mode) (sum0 a b : Word) :
    acceptBlock m sum0 a b s = .next (beginBlock m (loadBlock a b sum0 s)) := by
  simp [acceptBlock, h]

theorem acceptBlock_noKey {s : State} (h : s.kv = false) (m : Mode) (sum0 a b : Word) :
    acceptBlock m sum0 a b s = .fault (.protocolViolation .noKey) := by
  simp [acceptBlock, h]

/-! ### The key read (rule R52) -/

/-- Every read of the key file gives one of its four words. -/
theorem readKey_mem (k : KeyFile) (i : BitVec 2) : readKey k i ∈ [k.k0, k.k1, k.k2, k.k3] := by
  unfold readKey
  split <;> [simp; split <;> [simp; split <;> simp]]

/-! ### The completion test (rule R118) -/

theorem completes_iff (r : BitVec 6) : completes r = true ↔ r = 31#6 := by
  revert r; decide

/-! ### An instruction -/

/-- `exec` is the meaning at the default `DELTA`. -/
@[simp] theorem execWith_default (i : Instr) (s : State) : execWith Config.delta i s = exec i s := by
  cases i <;> rfl

/-- Everything an instruction can do: NOP or a command turned away leaves the state; the other
commands act on an idle core; a micro-operation acts always; only a block command without a key
faults. -/
theorem execWith_cases (delta : Word) (i : Instr) (s : State) :
    (i.format = .cmd ∧ s.st = .busy ∧ execWith delta i s = .next s) ∨
    (i = .nop ∧ execWith delta i s = .next s) ∨
    (∃ a b c d, i = .setkey a b c d ∧ s.st = .idle ∧ execWith delta i s = .next (writeKey a b c d s)) ∨
    (∃ a b, i = .encipher a b ∧ s.st = .idle ∧ s.kv = true ∧
      execWith delta i s = .next (beginBlock .enc (loadBlock a b Config.sum0Enc s))) ∨
    (∃ a b, i = .decipher a b ∧ s.st = .idle ∧ s.kv = true ∧
      execWith delta i s = .next (beginBlock .dec (loadBlock a b (sum0Dec delta) s))) ∨
    ((blockCommand i).isSome ∧ s.st = .idle ∧ s.kv = false ∧
      execWith delta i s = .fault (.protocolViolation .noKey)) ∨
    (i = .encA ∧ execWith delta i s = .next (encHalfA delta s)) ∨
    (i = .encB ∧ execWith delta i s = .next (encHalfB s)) ∨
    (i = .decA ∧ execWith delta i s = .next (decHalfA delta s)) ∨
    (i = .decB ∧ execWith delta i s = .next (decHalfB s)) := by
  rcases hs : s.st with _ | _ <;> rcases hk : s.kv with _ | _ <;> cases i <;>
    simp [execWith, execNop, execSetkey, execEncipher, execDecipher, execEncA, execEncB, execDecA, execDecB,
      accept, acceptBlock, hs, hk, Instr.format, blockCommand]

/-- The same of `exec`, at the default `DELTA`. -/
theorem exec_cases (i : Instr) (s : State) :
    (i.format = .cmd ∧ s.st = .busy ∧ exec i s = .next s) ∨
    (i = .nop ∧ exec i s = .next s) ∨
    (∃ a b c d, i = .setkey a b c d ∧ s.st = .idle ∧ exec i s = .next (writeKey a b c d s)) ∨
    (∃ a b, i = .encipher a b ∧ s.st = .idle ∧ s.kv = true ∧
      exec i s = .next (beginBlock .enc (loadBlock a b Config.sum0Enc s))) ∨
    (∃ a b, i = .decipher a b ∧ s.st = .idle ∧ s.kv = true ∧
      exec i s = .next (beginBlock .dec (loadBlock a b (sum0Dec Config.delta) s))) ∨
    ((blockCommand i).isSome ∧ s.st = .idle ∧ s.kv = false ∧
      exec i s = .fault (.protocolViolation .noKey)) ∨
    (i = .encA ∧ exec i s = .next (encHalfA Config.delta s)) ∨
    (i = .encB ∧ exec i s = .next (encHalfB s)) ∨
    (i = .decA ∧ exec i s = .next (decHalfA Config.delta s)) ∨
    (i = .decB ∧ exec i s = .next (decHalfB s)) := by
  simpa only [execWith_default] using execWith_cases Config.delta i s

/-- No instruction is refused. -/
theorem execWith_not_refused (delta : Word) (i : Instr) (s : State) (r : Refusal) :
    execWith delta i s ≠ .refused r := by
  rcases execWith_cases delta i s with ⟨_, _, h⟩ | ⟨_, h⟩ | ⟨_, _, _, _, _, _, h⟩ | ⟨_, _, _, _, _, h⟩ |
    ⟨_, _, _, _, _, h⟩ | ⟨_, _, _, h⟩ | ⟨_, h⟩ | ⟨_, h⟩ | ⟨_, h⟩ | ⟨_, h⟩ <;> simp [h]

theorem exec_not_refused (i : Instr) (s : State) (r : Refusal) : exec i s ≠ .refused r :=
  execWith_default i s ▸ execWith_not_refused Config.delta i s r

/-- No instruction touches the host agent's data or draws a free value. -/
theorem execWith_host_frame {delta : Word} {i : Instr} {s t : State} (h : execWith delta i s = .next t) :
    t.script = s.script ∧ t.results = s.results ∧ t.freeNext = s.freeNext := by
  rcases execWith_cases delta i s with ⟨_, _, e⟩ | ⟨_, e⟩ | ⟨_, _, _, _, _, _, e⟩ | ⟨_, _, _, _, _, e⟩ |
    ⟨_, _, _, _, _, e⟩ | ⟨_, _, _, e⟩ | ⟨_, e⟩ | ⟨_, e⟩ | ⟨_, e⟩ | ⟨_, e⟩ <;>
    rw [e] at h <;> cases h <;> simp

theorem exec_host_frame {i : Instr} {s t : State} (h : exec i s = .next t) :
    t.script = s.script ∧ t.results = s.results ∧ t.freeNext = s.freeNext :=
  execWith_host_frame ((execWith_default i s).trans h)

/-! ### A step of the core (rule R154) -/

theorem coreStep_reset {p : InPorts} (h : p.rst = true) (s : State) (delta : Word := Config.delta) :
    coreStep p s delta = .next (resetEvent s) := by
  simp [coreStep, h]

theorem coreStepWith_busy {delta : Word} {p : InPorts} {s : State} (hp : p.rst = false) (hs : s.st = .busy) :
    coreStep p s delta = execWith delta (decodeUstep s.mode s.phase) s := by
  simp [coreStep, hp, hs]

theorem coreStepWith_command {delta : Word} {p : InPorts} {s : State} (hp : p.rst = false) (hs : s.st = .idle)
    (hv : p.cmdValid = true) : coreStep p s delta = execWith delta (decodeCmd p) s := by
  simp [coreStep, hp, hs, hv]

theorem coreStep_nothing {delta : Word} {p : InPorts} {s : State} (hp : p.rst = false) (hs : s.st = .idle)
    (hv : p.cmdValid = false) : coreStep p s delta = .next s := by
  simp [coreStep, hp, hs, hv]

theorem coreStep_busy {p : InPorts} {s : State} (hp : p.rst = false) (hs : s.st = .busy) :
    coreStep p s = exec (decodeUstep s.mode s.phase) s :=
  (coreStepWith_busy hp hs).trans (execWith_default _ _)

theorem coreStep_command {p : InPorts} {s : State} (hp : p.rst = false) (hs : s.st = .idle)
    (hv : p.cmdValid = true) : coreStep p s = exec (decodeCmd p) s :=
  (coreStepWith_command hp hs hv).trans (execWith_default _ _)

theorem decodeUstep_enc_a : decodeUstep .enc .a = .encA := by decide
theorem decodeUstep_enc_b : decodeUstep .enc .b = .encB := by decide
theorem decodeUstep_dec_a : decodeUstep .dec .a = .decA := by decide
theorem decodeUstep_dec_b : decodeUstep .dec .b = .decB := by decide

/-- What a busy core's step leaves (rule R117): the micro-operation that (`MODE`, `PHASE`) names. -/
theorem coreStep_busy_cases {p : InPorts} {s : State} (hp : p.rst = false) (hs : s.st = .busy)
    (delta : Word := Config.delta) :
    (s.mode = .enc ∧ s.phase = .a ∧ coreStep p s delta = .next (encHalfA delta s)) ∨
    (s.mode = .enc ∧ s.phase = .b ∧ coreStep p s delta = .next (encHalfB s)) ∨
    (s.mode = .dec ∧ s.phase = .a ∧ coreStep p s delta = .next (decHalfA delta s)) ∨
    (s.mode = .dec ∧ s.phase = .b ∧ coreStep p s delta = .next (decHalfB s)) := by
  rw [coreStepWith_busy hp hs]
  rcases hm : s.mode with _ | _ <;> rcases hh : s.phase with _ | _ <;>
    simp [decodeUstep_enc_a, decodeUstep_enc_b, decodeUstep_dec_a, decodeUstep_dec_b, execWith, execEncA, execEncB,
      execDecA, execDecB]

/-- No step of the core is refused. -/
theorem coreStep_not_refused (p : InPorts) (s : State) (r : Refusal) (delta : Word := Config.delta) :
    coreStep p s delta ≠ .refused r := by
  unfold coreStep
  split
  · simp
  · split
    · exact execWith_not_refused _ _ _ _
    · split
      · exact execWith_not_refused _ _ _ _
      · simp

/-- A step of the core leaves the host agent's script and results alone. -/
theorem coreStep_host_frame {delta : Word} {p : InPorts} {s t : State} (h : coreStep p s delta = .next t) :
    t.script = s.script ∧ t.results = s.results := by
  unfold coreStep at h
  split at h
  · cases h; simp
  · split at h
    · exact ⟨(execWith_host_frame h).1, (execWith_host_frame h).2.1⟩
    · split at h
      · exact ⟨(execWith_host_frame h).1, (execWith_host_frame h).2.1⟩
      · cases h; simp

/-! ### A run of the core -/

@[simp] theorem coreRun_nil (s : State) (delta : Word) : coreRun [] s delta = .next s := rfl

theorem coreRun_cons_next {delta : Word} {p : InPorts} {ps : List InPorts} {s t : State}
    (h : coreStep p s delta = .next t) : coreRun (p :: ps) s delta = coreRun ps t delta := by
  simp [coreRun, h]

theorem coreRun_append_next {delta : Word} {ps qs : List InPorts} {s t : State}
    (h : coreRun ps s delta = .next t) : coreRun (ps ++ qs) s delta = coreRun qs t delta := by
  induction ps generalizing s with
  | nil => cases h; rfl
  | cons p ps ih =>
    simp only [coreRun, List.cons_append] at h ⊢
    cases hp : coreStep p s delta with
    | next u => rw [hp] at h; exact ih h
    | fault r => rw [hp] at h; cases h
    | refused r => rw [hp] at h; cases h

/-! ### What a host reads (rules R35, R156) -/

theorem readResult_valid {s : State} (h : s.dv = true) : readResult s = some (s.v0, s.v1) := by
  simp [readResult, portDv, portDout0, portDout1, h]

theorem readResult_invalid {s : State} (h : s.dv = false) : readResult s = none := by
  simp [readResult, portDv, h]

/-! ### The host's script lines (rule R80) -/

theorem scriptAfter_nil {s : State} (t : State) (h : s.script = []) : scriptAfter s t = [] := by
  simp [scriptAfter, h]

theorem scriptAfter_drive {s : State} {p : InPorts} {rest : List HostAction} (t : State)
    (h : s.script = .drive p :: rest) : scriptAfter s t = rest := by
  simp [scriptAfter, h]

theorem scriptAfter_command {s : State} {p : InPorts} {rest : List HostAction} (t : State)
    (h : s.script = .command p :: rest) : scriptAfter s t = if s.st = .idle then rest else .command p :: rest := by
  cases hs : s.st <;> simp [scriptAfter, h, portCmdReady, hs]

theorem scriptAfter_wait {s : State} {rest : List HostAction} (t : State) (h : s.script = .wait :: rest) :
    scriptAfter s t = if t.dv = true then rest else .wait :: rest := by
  cases hd : t.dv <;> simp [scriptAfter, h, portDv, hd]

theorem scriptAfter_read {s : State} {rest : List HostAction} (t : State) (h : s.script = .read :: rest) :
    scriptAfter s t = rest := by
  simp [scriptAfter, h]

theorem scriptAfter_reset {s : State} {rest : List HostAction} (t : State) (h : s.script = .reset :: rest) :
    scriptAfter s t = rest := by
  simp [scriptAfter, h]

theorem resultsAfter_of_not_reading {s : State} (h : hostReads s = false) : resultsAfter s = s.results := by
  simp [resultsAfter, h]

theorem resultsAfter_of_reading {s : State} (h : hostReads s = true) (hd : s.dv = true) :
    resultsAfter s = s.results ++ [(s.v0, s.v1)] := by
  simp [resultsAfter, h, readResult_valid hd]

/-! ### A step of core and host (rules R80, R156) -/

/-- `step` is the step of core and host at the default `DELTA`. -/
theorem machineStep_default (s : State) : machineStep s = step s := rfl

/-- Everything a step can do: a READ without a result faults; otherwise the core steps with the
ports the host drives, and the host brings its own data up to date. -/
theorem machineStep_cases (s : State) (delta : Word := Config.delta) :
    (hostReads s = true ∧ s.dv = false ∧ machineStep s delta = .fault (.protocolViolation .noData)) ∨
    ((hostReads s = true → s.dv = true) ∧ ∃ t, coreStep (drivenPorts s) s delta = .next t ∧
      machineStep s delta = .next (hostAdvance s t)) ∨
    ((hostReads s = true → s.dv = true) ∧ ∃ r, coreStep (drivenPorts s) s delta = .fault r ∧
      machineStep s delta = .fault r) := by
  unfold machineStep portDv
  rcases hr : hostReads s with _ | _ <;> rcases hd : s.dv with _ | _ <;> simp <;>
    cases hc : coreStep (drivenPorts s) s delta with
    | next t => simp
    | fault r => simp
    | refused r => exact absurd hc (coreStep_not_refused _ _ _ _)

theorem step_cases (s : State) :
    (hostReads s = true ∧ s.dv = false ∧ step s = .fault (.protocolViolation .noData)) ∨
    ((hostReads s = true → s.dv = true) ∧ ∃ t, coreStep (drivenPorts s) s = .next t ∧
      step s = .next (hostAdvance s t)) ∨
    ((hostReads s = true → s.dv = true) ∧ ∃ r, coreStep (drivenPorts s) s = .fault r ∧ step s = .fault r) :=
  machineStep_cases s

/-- The step of core and host out of the core's step. -/
theorem machineStep_of_coreStep {delta : Word} {s t : State} (hr : hostReads s = true → s.dv = true)
    (h : coreStep (drivenPorts s) s delta = .next t) : machineStep s delta = .next (hostAdvance s t) := by
  rcases machineStep_cases s delta with ⟨h1, h2, _⟩ | ⟨_, u, hu, e⟩ | ⟨_, r, hu, _⟩
  · simp [hr h1] at h2
  · rw [hu] at h; cases h; exact e
  · rw [hu] at h; cases h

theorem step_of_coreStep {s t : State} (hr : hostReads s = true → s.dv = true)
    (h : coreStep (drivenPorts s) s = .next t) : step s = .next (hostAdvance s t) :=
  machineStep_of_coreStep hr h

@[simp] theorem stepRun_zero (s : State) (delta : Word) : stepRun 0 s delta = .next s := rfl

theorem stepRunWith_succ_next {delta : Word} {n : Nat} {s t : State} (h : machineStep s delta = .next t) :
    stepRun (n + 1) s delta = stepRun n t delta := by
  simp [stepRun, h]

theorem stepRun_succ_next {n : Nat} {s t : State} (h : step s = .next t) : stepRun (n + 1) s = stepRun n t :=
  stepRunWith_succ_next h

theorem stepRun_add_next {delta : Word} {n : Nat} {s t : State} (m : Nat) (h : stepRun n s delta = .next t) :
    stepRun (n + m) s delta = stepRun m t delta := by
  induction n generalizing s with
  | zero => cases h; rw [Nat.zero_add]
  | succ n ih =>
    rw [Nat.add_right_comm]
    simp only [stepRun] at h ⊢
    cases hs : machineStep s delta with
    | next u => rw [hs] at h; exact ih h
    | fault r => rw [hs] at h; cases h
    | refused r => rw [hs] at h; cases h

/-! ### A run from reset (rule R184) -/

theorem runEnded_iff (s : State) : runEnded s = true ↔ s.script = [] ∧ s.st = .idle := by
  simp [runEnded, portCmdReady]

/-- An ended run stays where it is: the host presents nothing, and an idle core does nothing. -/
theorem machineStep_ended {s : State} (h : runEnded s = true) (delta : Word := Config.delta) :
    machineStep s delta = .next s := by
  obtain ⟨hc, hi⟩ := (runEnded_iff s).1 h
  obtain ⟨⟩ := s
  cases hc
  cases hi
  simp [machineStep, hostReads, drivenPorts, hostAdvance, scriptAfter, resultsAfter, coreStep, InPorts.idle]

/-- Where a run ends: in a state that its steps reach and that is ended, and in no earlier one. -/
theorem endWithin_some {delta : Word} {n : Nat} {s t : State} (h : endWithin n s delta = some t) :
    runEnded t = true ∧ ∃ m ≤ n, stepRun m s delta = .next t := by
  induction n generalizing s with
  | zero =>
    rw [endWithin] at h
    split at h
    · cases h; exact ⟨‹_›, 0, Nat.le_refl _, rfl⟩
    · cases h
  | succ n ih =>
    rw [endWithin] at h
    split at h
    · cases h; exact ⟨‹_›, 0, Nat.zero_le _, rfl⟩
    · cases hs : machineStep s delta with
      | next u =>
        rw [hs] at h
        obtain ⟨he, m, hm, hr⟩ := ih h
        exact ⟨he, m + 1, Nat.succ_le_succ hm, (stepRunWith_succ_next hs).trans hr⟩
      | fault r => rw [hs] at h; cases h
      | refused r => rw [hs] at h; cases h

/-- A run whose steps reach an ended state ends there. -/
theorem endWithin_of_stepRun {delta : Word} {n : Nat} {s t : State} (h : stepRun n s delta = .next t)
    (ht : runEnded t = true) : endWithin n s delta = some t := by
  induction n generalizing s with
  | zero => cases h; rw [endWithin, if_pos ht]
  | succ n ih =>
    rw [endWithin]
    split
    · rename_i hs
      rw [stepRunWith_succ_next (machineStep_ended hs delta)] at h
      have := ih h
      cases n <;> rw [endWithin, if_pos hs] at this <;> exact this
    · simp only [stepRun] at h ⊢
      cases hs : machineStep s delta with
      | next u => rw [hs] at h; exact ih h
      | fault r => rw [hs] at h; cases h
      | refused r => rw [hs] at h; cases h

/-! ### An adapter's call (rule R135) -/

theorem lengthsMatch_iff (input output : List Byte) :
    lengthsMatch input output = true ↔ input.length % 8 = 0 ∧ output.length = input.length := by
  simp [lengthsMatch]

end Sys2Proof.Machine
end

