-- ==== Sys2Proof/Laws/PerInstr.lean ====
section
/-! SUPPORT. The family `Canonical`, one lemma per constructor of `Instr`: an instruction's encoding
stands in the instruction's own format, carries its code there, and holds nothing its decoder would
drop. -/

namespace Sys2Proof.Laws.Canonical

/-- The family's statement about one instruction as syntax. -/
def Statement (i : Instr) : Prop :=
  i.fits (encode i).format = true ∧ (encode i).isCanonical = true ∧
    (match (encode i).format with
      | .cmd => (encode i).ports.cmd
      | .ustep => (encode i).sel) = i.code

theorem nop : Statement .nop := ⟨rfl, rfl, rfl⟩

theorem setkey (k0 k1 k2 k3 : Word) : Statement (.setkey k0 k1 k2 k3) := by
  refine ⟨rfl, ?_, rfl⟩
  simp [Encoded.isCanonical, Encoded.canonical, InPorts.canonical, encode, encodeCmd, Instr.format, InPorts.idle]

theorem encipher (v0 v1 : Word) : Statement (.encipher v0 v1) := by
  refine ⟨rfl, ?_, rfl⟩
  simp [Encoded.isCanonical, Encoded.canonical, InPorts.canonical, encode, encodeCmd, Instr.format, InPorts.idle]

theorem decipher (v0 v1 : Word) : Statement (.decipher v0 v1) := by
  refine ⟨rfl, ?_, rfl⟩
  simp [Encoded.isCanonical, Encoded.canonical, InPorts.canonical, encode, encodeCmd, Instr.format, InPorts.idle]

theorem encA : Statement .encA := ⟨rfl, rfl, rfl⟩

theorem encB : Statement .encB := ⟨rfl, rfl, rfl⟩

theorem decA : Statement .decA := ⟨rfl, rfl, rfl⟩

theorem decB : Statement .decB := ⟨rfl, rfl, rfl⟩

end Sys2Proof.Laws.Canonical
end

