-- ==== Sys2Proof/Tests/Slice0.lean ====
section
/-! SUPPORT. The model's own tests.  Expected values come from the spec: the encoding tables of rules
R72 and R74, the worked values of rules R110 and R113 to R116, and 95_test_vectors.md (named at each
test).  The last part gives each statement with hypotheses a witness that meets them. -/

namespace Sys2Proof.Tests

open Sys2Proof.Machine

/-- The next state, if there is one. -/
def after (o : Host.Outcome State Fault Refusal) : Option State :=
  match o with
  | .next t => some t
  | .fault _ => none
  | .refused _ => none

/-- The fault, if there is one. -/
def faultOf (o : Host.Outcome State Fault Refusal) : Option Fault :=
  match o with
  | .next _ => none
  | .fault r => some r
  | .refused _ => none

/-- The key of vector V1. -/
def keyV1 : KeyFile := ⟨0x00010203#32, 0x04050607#32, 0x08090A0B#32, 0x0C0D0E0F#32⟩

/-- Key I of section 2.4. -/
def keyI : KeyFile := ⟨0x11111111#32, 0x22222222#32, 0x33333333#32, 0x44444444#32⟩

/-- An idle core with a key. -/
def idleState (k : KeyFile) : State := { State.reset with k := k, kv := true }

/-- An idle core with a key and a result. -/
def doneState : State := { idleState keyV1 with rnd := 32#6, dv := true, sum := sum0Dec Config.delta }

/-- A busy core at a given half-round. -/
def busyState (k : KeyFile) (m : Mode) (rnd : BitVec 6) (ph : Phase) (v0 v1 sum : Word) : State :=
  { idleState k with st := .busy, mode := m, rnd := rnd, phase := ph, v0 := v0, v1 := v1, sum := sum }

/-! ### Well-formedness: an ill-formed term for each check -/

theorem test_micro_operation_is_no_command : Instr.fits .cmd .encA = false := by decide

theorem test_command_is_no_micro_operation : Instr.fits .ustep .nop = false := by decide

theorem test_ignored_port_not_canonical :
    (Encoded.isCanonical
      { format := .cmd, ports := { InPorts.idle with cmdValid := true, cmd := 0b10#2, kin0 := 1#32 }, sel := 0#2 }) =
      false := by decide

theorem test_unread_selector_not_canonical :
    (Encoded.isCanonical { format := .cmd, ports := { InPorts.idle with cmdValid := true }, sel := 0b01#2 }) =
      false := by decide

/-! ### Decoding: words written out from rules R72 and R74 -/

theorem test_decode_nop : decodeCmd { InPorts.idle with cmd := 0b00#2, kin0 := 7#32, din0 := 8#32 } = .nop := by decide

/-- P1 line 2. -/
theorem test_decode_setkey :
    decodeCmd { InPorts.idle with
      cmd := 0b01#2, kin0 := 0x00010203#32, kin1 := 0x04050607#32, kin2 := 0x08090A0B#32, kin3 := 0x0C0D0E0F#32 } =
    .setkey 0x00010203#32 0x04050607#32 0x08090A0B#32 0x0C0D0E0F#32 := by decide

/-- P1 line 3. -/
theorem test_decode_encipher :
    decodeCmd { InPorts.idle with cmd := 0b10#2, din0 := 0x41424344#32, din1 := 0x45464748#32 } =
    .encipher 0x41424344#32 0x45464748#32 := by decide

/-- P1 line 6. -/
theorem test_decode_decipher :
    decodeCmd { InPorts.idle with cmd := 0b11#2, din0 := 0x497DF3D0#32, din1 := 0x72612CB5#32 } =
    .decipher 0x497DF3D0#32 0x72612CB5#32 := by decide

theorem test_selector_codes :
    selector .enc .a = 0b00#2 ∧ selector .enc .b = 0b01#2 ∧ selector .dec .a = 0b10#2 ∧ selector .dec .b = 0b11#2 := by
  decide

theorem test_decode_selectors :
    decodeSelector 0b00#2 = .encA ∧ decodeSelector 0b01#2 = .encB ∧
    decodeSelector 0b10#2 = .decA ∧ decodeSelector 0b11#2 = .decB := by decide

theorem test_table_words :
    decodeTableWord 8 0 = some .nop ∧ decodeTableWord 8 1 = some (.setkey 0#32 0#32 0#32 0#32) ∧
    decodeTableWord 8 2 = some (.encipher 0#32 0#32) ∧ decodeTableWord 8 3 = some (.decipher 0#32 0#32) := by decide

/-! ### Arithmetic, F and the key index: sections 2.1 to 2.3, rule R110 -/

theorem test_word_operators :
    add32 0xF800000F#32 0xFFFFFFFF#32 = 0xF800000E#32 ∧ sub32 0#32 0x9E3779B9#32 = 0x61C88647#32 ∧
    mul32 0x9E3779B9#32 32#32 = 0xC6EF3720#32 ∧ shl32 0xFFFFFFFF#32 4 = 0xFFFFFFF0#32 ∧
    shr32 0xFFFFFFFF#32 5 = 0x07FFFFFF#32 ∧ shr32 0x9E3779B9#32 11 = 0x0013C6EF#32 ∧
    and32 0x0013C6EF#32 3#32 = 3#32 ∧ xor32 0x9B948E02#32 0x00010203#32 = 0x9B958C01#32 := by decide

theorem test_mixing_function :
    mixF 1#32 = 0x11#32 ∧ mixF 0x20#32 = 0x221#32 ∧ mixF 0x80000000#32 = 0x84000000#32 ∧
    mixF 0x45464748#32 = 0x9B948E02#32 ∧ mixF 0xFFFFFFFF#32 = 0xF800000E#32 := by decide

theorem test_key_index :
    idxA 0x9E3779B9#32 = 1#2 ∧ idxB 0x9E3779B9#32 = 3#2 ∧ idxA 0xC6EF3720#32 = 0#2 ∧ idxB 0xC6EF3720#32 = 2#2 ∧
    idxB 0x2000#32 = 0#2 ∧ idxB 0x400#32 = 0#2 ∧ idxB 0x800#32 = 1#2 := by decide

theorem test_decipher_start : sum0Dec Config.delta = 0xC6EF3720#32 := by decide

/-! ### One micro-operation: rules R113 to R116 and section 2.4 -/

/-- Rule R113's example. -/
theorem test_encA_example :
    (after (exec .encA (busyState keyV1 .enc 0#6 .a 0x41424344#32 0x45464748#32 0#32))).map
      (fun t => (t.v0, t.v1, t.sum, t.phase)) =
    some (0xDCD7CF45#32, 0x45464748#32, 0x9E3779B9#32, .b) := by decide

/-- Section 2.4, row 4: the key term wraps. -/
theorem test_encA_wraps :
    (after (exec .encA (busyState keyI .enc 0#6 .a 1#32 0#32 0xFFFFFFFF#32))).map (fun t => (t.v0, t.sum)) =
    some (0x44444444#32, 0x9E3779B8#32) := by decide

/-- Rule R114's example. -/
theorem test_encB_example :
    (after (exec .encB (busyState keyV1 .enc 0#6 .b 0xDCD7CF45#32 0x45464748#32 0x9E3779B9#32))).map
      (fun t => (t.v1, t.sum, t.rnd, t.phase, t.st)) =
    some (0x477CE5EF#32, 0x9E3779B9#32, 1#6, .a, .busy) := by decide

/-- Section 2.9: ENC_B at round 31; the last row of trace T1. -/
theorem test_encB_completes :
    (after (exec .encB (busyState keyV1 .enc 31#6 .b 0x497DF3D0#32 0x6076A570#32 0xC6EF3720#32))).map
      (fun t => (t.v1, controlPart t)) =
    some (0x72612CB5#32, ⟨.idle, .enc, 32#6, .a, true, true⟩) := by decide

/-- Rule R115's example. -/
theorem test_decA_example :
    (after (exec .decA (busyState keyV1 .dec 0#6 .a 0x497DF3D0#32 0x72612CB5#32 0xC6EF3720#32))).map
      (fun t => (t.v0, t.v1, t.sum, t.phase)) =
    some (0x497DF3D0#32, 0x6076A570#32, 0x28B7BD67#32, .b) := by decide

/-- Section 2.4, row 9: top bits. -/
theorem test_decA_top_bits :
    (after (exec .decA (busyState keyI .dec 0#6 .a 0x80000000#32 0x80000000#32 0x80000000#32))).map
      (fun t => (t.v1, t.sum)) =
    some (0x6AEEEEEF#32, 0xE1C88647#32) := by decide

/-- Rule R116's example. -/
theorem test_decB_example :
    (after (exec .decB (busyState keyV1 .dec 0#6 .b 0x497DF3D0#32 0x6076A570#32 0x28B7BD67#32))).map
      (fun t => (t.v0, t.rnd, t.phase)) =
    some (0xF959A6E3#32, 1#6, .a) := by decide

/-- Section 2.9: DEC_B at round 31; the last row of trace T2. -/
theorem test_decB_completes :
    (after (exec .decB (busyState keyV1 .dec 31#6 .b 0xDCD7CF45#32 0x45464748#32 0#32))).map
      (fun t => (t.v0, controlPart t)) =
    some (0x41424344#32, ⟨.idle, .dec, 32#6, .a, true, true⟩) := by decide

/-! ### One command: section 2.9 -/

theorem test_setkey_keeps_result :
    (after (exec (.setkey 1#32 2#32 3#32 4#32) doneState)).map (fun t => (t.k, controlPart t)) =
    some (⟨1#32, 2#32, 3#32, 4#32⟩, ⟨.idle, .enc, 32#6, .a, true, true⟩) := by decide

theorem test_encipher_accepted :
    (after (exec (.encipher 5#32 6#32) (idleState keyV1))).map (fun t => (t.v0, t.v1, t.sum, controlPart t)) =
    some (5#32, 6#32, 0#32, ⟨.busy, .enc, 0#6, .a, true, false⟩) := by decide

theorem test_decipher_accepted :
    (after (exec (.decipher 5#32 6#32) doneState)).map (fun t => (t.v0, t.v1, t.sum, controlPart t)) =
    some (5#32, 6#32, 0xC6EF3720#32, ⟨.busy, .dec, 0#6, .a, true, false⟩) := by decide

theorem test_encipher_without_key :
    faultOf (exec (.encipher 0#32 0#32) State.reset) = some (.protocolViolation .noKey) := by decide

/-- A SETKEY presented while BUSY is not accepted; ENC_A executes. -/
theorem test_busy_ignores_setkey :
    (after (coreStep { InPorts.idle with cmdValid := true, cmd := 0b01#2, kin0 := 9#32 }
      (busyState keyV1 .enc 5#6 .a 0#32 0#32 0#32))).map (fun t => (t.k, controlPart t)) =
    some (keyV1, ⟨.busy, .enc, 5#6, .b, true, false⟩) := by decide

/-- A reset wins over a micro-operation. -/
theorem test_reset_aborts :
    (after (coreStep InPorts.reset (busyState keyV1 .dec 12#6 .b 0#32 0#32 0#32))).map controlPart =
    some ⟨.idle, .enc, 0#6, .a, false, false⟩ := by decide

/-- P4, second script: READ while `dv` = 0. -/
theorem test_read_without_result :
    faultOf (step { busyState keyV1 .enc 5#6 .a 0#32 0#32 0#32 with script := [.read] }) =
      some (.protocolViolation .noData) := by decide

/-- P1 line 5: READ gives the pair and leaves the core. -/
theorem test_read_gives_result :
    (after (step { doneState with v0 := 0x497DF3D0#32, v1 := 0x72612CB5#32, script := [.read] })).map
      (fun t => (t.results, t.script, t.dv)) =
    some ([(0x497DF3D0#32, 0x72612CB5#32)], [], true) := by decide

/-- P3 line 4: the line stays while BUSY. -/
theorem test_command_held_while_busy :
    (after (step { busyState keyV1 .enc 5#6 .a 0#32 0#32 0#32 with script := [.command (encodeCmd .nop)] })).map
      (fun t => t.script) = some [.command (encodeCmd .nop)] := by decide

/-- A word on the command port is what the next step runs. -/
theorem test_fetch_word_runs :
    (after (step (State.reset.withFetchWord 8 1))).map (fun t => (t.kv, t.script)) = some (true, []) := by decide

/-! ### The block functions: section 2.5 -/

set_option maxRecDepth 4000 in
/-- V1, the public vector that tells the right cipher from the mistakes of section 2.8. -/
theorem test_enc_v1 :
    enc Config.delta keyV1 0x41424344#32 0x45464748#32 = (0x497DF3D0#32, 0x72612CB5#32) := by decide

set_option maxRecDepth 4000 in
/-- V1, the DEC column. -/
theorem test_dec_v1 :
    dec Config.delta keyV1 0x41424344#32 0x45464748#32 = (0x54FF8C22#32, 0x343A16DA#32) := by decide

/-! ### The adapter: sections 2.7 and rules R132 to R137 -/

theorem test_word_byte_orders :
    decodeWord .be 0x41#8 0x42#8 0x43#8 0x44#8 = 0x41424344#32 ∧
    decodeWord .le 0x41#8 0x42#8 0x43#8 0x44#8 = 0x44434241#32 ∧
    encodeWord .le 0xB768DDBE#32 = [0xBE#8, 0xDD#8, 0x68#8, 0xB7#8] := by decide

/-- V17. -/
theorem test_invalid_length :
    encipherBuffer Config.delta keyV1 [1#8, 2#8, 3#8, 4#8, 5#8, 6#8, 7#8] [9#8] .be =
      ⟨[9#8], some .invalidLength⟩ := by decide

/-- V18, with a block function that keeps the block: one chunk written, then the error. -/
theorem test_incomplete_block :
    cipherStream (fun a b => (a, b)) .be
      [1#8, 2#8, 3#8, 4#8, 5#8, 6#8, 7#8, 8#8, 9#8, 10#8, 11#8, 12#8] none none =
      ⟨[1#8, 2#8, 3#8, 4#8, 5#8, 6#8, 7#8, 8#8], some .incompleteBlock⟩ := by decide

/-- V17 as command lines: the length check comes before any of them (rule R135). -/
theorem test_invalid_length_no_line :
    encipherBufferScript .be [1#8, 2#8, 3#8, 4#8, 5#8, 6#8, 7#8] [9#8] = [] ∧
    bufferOutcome [1#8, 2#8, 3#8, 4#8, 5#8, 6#8, 7#8] [9#8] .be [] = ⟨[9#8], some .invalidLength⟩ := by decide

/-- V15a: the chunk's command lines, and the READ's words encoded into the output chunk. -/
theorem test_buffer_lines :
    encipherBufferScript .be [0x41#8, 0x42#8, 0x43#8, 0x44#8, 0x45#8, 0x46#8, 0x47#8, 0x48#8]
      (List.replicate 8 0#8) = encipherBlockScript (0x41424344#32, 0x45464748#32) ∧
    bufferOutcome [0x41#8, 0x42#8, 0x43#8, 0x44#8, 0x45#8, 0x46#8, 0x47#8, 0x48#8] (List.replicate 8 0#8) .be
      [(0x497DF3D0#32, 0x72612CB5#32)] =
      ⟨[0x49#8, 0x7D#8, 0xF3#8, 0xD0#8, 0x72#8, 0x61#8, 0x2C#8, 0xB5#8], none⟩ := by decide

/-- Rule R137: a stream's command lines stop after the chunk whose write fails, which the sink lacks. -/
theorem test_stream_lines :
    encipherStreamScript .be (List.replicate 20 0#8) (some (0, 7)) = encipherBlockScript (0#32, 0#32) ∧
    streamOutcome .be (List.replicate 20 0#8) none (some (0, 7)) [(1#32, 2#32)] = ⟨[], some (.ioFailure 7)⟩ := by
  decide

/-! ### Runs: rule R184 -/

/-- A run of one SETKEY ends after it, with no result to observe. -/
theorem test_run_ends :
    (endWithin 1 (runStart (constructScript keyV1))).map observe =
      some { cmdReady := true, dv := false, dout := none } := by decide

/-- P4, its first script: a run with a violation has no end state. -/
theorem test_run_without_key :
    endWithin 9 (runStart [.reset, commandLine (.encipher 0#32 0#32)]) = none := by decide

/-! ### Witnesses: for each statement with hypotheses, states and operands that meet them -/

/-- A script line of ports with a command on them. -/
def presented (c : BitVec 2) : InPorts := { InPorts.idle with cmdValid := true, cmd := c }

/-- A busy core in the first half-round of an encipher. -/
def startedEnc : State := busyState keyV1 .enc 0#6 .a 1#32 2#32 0#32

/-- A busy core one step before the end of a decipher. -/
def endingDec : State := busyState keyV1 .dec 31#6 .b 1#32 2#32 0#32

theorem witness_startedEnc_inv : StateInv Config.delta startedEnc := by
  constructor <;> decide

theorem witness_endingDec_inv : StateInv Config.delta endingDec := by
  constructor <;> decide

theorem witness_remaining : startedEnc.st = .busy ∧ remaining startedEnc = 64 ∧
    endingDec.st = .busy ∧ remaining endingDec = 1 := by decide

theorem witness_AssignedCodesDecode : (presented 0b00#2).cmd = 0b00#2 ∧ (presented 0b01#2).cmd = 0b01#2 ∧
    (presented 0b10#2).cmd = 0b10#2 ∧ (presented 0b11#2).cmd = 0b11#2 := by decide

/-- A word at each residue, the shortest width included. -/
theorem witness_TableWordRuns :
    (after (exec .nop (State.reset.withFetchWord 2 4))).isSome ∧
    (after (exec (.setkey 0#32 0#32 0#32 0#32) (State.reset.withFetchWord 8 1))).isSome ∧
    (after (exec (.encipher 0#32 0#32) ((idleState keyV1).withFetchWord 8 2))).isSome ∧
    (after (exec (.decipher 0#32 0#32) (startedEnc.withFetchWord 8 3))).isSome ∧
    decodeTableWord 2 4 = some .nop ∧ decodeTableWord 8 3 = some (.decipher 0#32 0#32) := by decide

/-- Busy with an empty script, idle with a command line, and a faulting command. -/
theorem witness_StepRunsDecodedInstruction :
    (hostReads startedEnc = false ∧ (drivenPorts startedEnc).rst = false ∧ startedEnc.st = .busy) ∧
    (let s : State := { doneState with script := [.command (presented 0b10#2)] }
     hostReads s = false ∧ (drivenPorts s).rst = false ∧ s.st = .idle ∧ (drivenPorts s).cmdValid = true ∧
       (after (exec (decodeCmd (drivenPorts s)) s)).isSome) ∧
    (let s : State := { State.reset with script := [.command (presented 0b10#2)] }
     (faultOf (exec (decodeCmd (drivenPorts s)) s)).isSome ∧ s.st = .idle) ∧
    (let s : State := { endingDec with dv := true, script := [.read] }
     hostReads s = true ∧ s.dv = true ∧ (drivenPorts s).rst = false ∧ s.st = .busy) := by decide

theorem witness_WordOperatorsExact : (0 : Nat) ≤ 31 ∧ (31 : Nat) ≤ 31 := by decide

/-- At the end of a round, inside it, and at the last one. -/
theorem witness_BlockEndsAtRound32 :
    (after (coreStep InPorts.idle endingDec)).map (fun t => t.st) = some .idle ∧
    (after (coreStep InPorts.idle startedEnc)).map (fun t => t.st) = some .busy ∧
    (after (coreStep InPorts.idle (busyState keyV1 .enc 30#6 .b 0#32 0#32 0#32))).map (fun t => t.st) =
      some .busy := by decide

theorem witness_idle_states : State.reset.st = .idle ∧ State.reset.kv = false ∧ doneState.st = .idle ∧
    doneState.kv = true ∧ doneState.dv = true := by decide

/-- NopWritesNothing, SetkeyResult, EncipherAccepted, DecipherAccepted. -/
theorem witness_CommandsAccepted : (presented 0b00#2).cmd = 0b00#2 ∧
    ((presented 0b01#2).rst = false ∧ (presented 0b01#2).cmdValid = true ∧ (presented 0b01#2).cmd = 0b01#2) ∧
    State.reset.st = .idle ∧ (idleState keyV1).st = .idle ∧ (idleState keyV1).kv = true := by decide

theorem witness_BusyTurnsCommandsAway :
    (Instr.setkey 1#32 2#32 3#32 4#32).format = .cmd ∧ (Instr.decipher 1#32 2#32).format = .cmd ∧
    startedEnc.st = .busy := by decide

theorem witness_ProtocolViolationsFault : State.reset.st = .idle ∧ State.reset.kv = false ∧
    (let s : State := { idleState keyV1 with script := [.read, .wait] }
     s.script = .read :: [.wait] ∧ s.dv = false) := by decide

/-- A fault of each kind. -/
theorem witness_OnlyViolationsFault :
    faultOf (step { State.reset with script := [.command (presented 0b11#2)] }) =
      some (.protocolViolation .noKey) ∧
    faultOf (step { State.reset with script := [.read] }) = some (.protocolViolation .noData) := by decide

/-- StepOrderOfEvaluation: one input of each of the four kinds. -/
theorem witness_StepOrderOfEvaluation : InPorts.reset.rst = true ∧
    (InPorts.idle.rst = false ∧ startedEnc.st = .busy) ∧
    ((presented 0b10#2).rst = false ∧ doneState.st = .idle ∧ (presented 0b10#2).cmdValid = true) ∧
    (InPorts.idle.rst = false ∧ doneState.st = .idle ∧ InPorts.idle.cmdValid = false) := by decide

/-- BusyDispatch: a state for each selector. -/
theorem witness_BusyDispatch : (presented 0b01#2).rst = false ∧ InPorts.idle.rst = false ∧
    (startedEnc.st = .busy ∧ startedEnc.mode = .enc ∧ startedEnc.phase = .a) ∧
    (endingDec.st = .busy ∧ endingDec.mode = .dec ∧ endingDec.phase = .b) ∧
    (let s := busyState keyV1 .enc 3#6 .b 0#32 0#32 0#32; s.st = .busy ∧ s.mode = .enc ∧ s.phase = .b) ∧
    (let s := busyState keyV1 .dec 3#6 .a 0#32 0#32 0#32; s.st = .busy ∧ s.mode = .dec ∧ s.phase = .a) := by
  decide

/-- IgnoredPortsHaveNoEffect: a SETKEY and an ENCIPHER that differ in the ports they ignore. -/
theorem witness_IgnoredPortsHaveNoEffect :
    (let p := { presented 0b01#2 with kin0 := 5#32, din0 := 1#32 }
     let q := { presented 0b01#2 with kin0 := 5#32, din0 := 2#32 }
     p.rst = q.rst ∧ p.cmdValid = q.cmdValid ∧ p.cmd = q.cmd ∧ p.cmd = 0b01#2 ∧ p.kin0 = q.kin0 ∧
       p.kin1 = q.kin1 ∧ p.kin2 = q.kin2 ∧ p.kin3 = q.kin3 ∧ p ≠ q) ∧
    (let p := { presented 0b10#2 with kin0 := 1#32, din0 := 5#32 }
     let q := { presented 0b10#2 with kin0 := 2#32, din0 := 5#32 }
     p.cmd = 0b10#2 ∧ p.din0 = q.din0 ∧ p.din1 = q.din1 ∧ p ≠ q) ∧
    (InPorts.idle.rst = false ∧ InPorts.idle.cmdValid = false ∧ startedEnc.st = .busy ∧ doneState.st = .idle) := by
  decide

/-- WrittenOnlyByItsWriters: an instruction that changes each element. -/
theorem witness_WrittenOnlyByItsWriters :
    (after (exec (.setkey 9#32 2#32 3#32 4#32) State.reset)).map
      (fun t => (decide (t.k = State.reset.k), decide (t.kv = State.reset.kv))) = some (false, false) ∧
    (after (exec (.decipher 9#32 8#32) doneState)).map
      (fun t => ([decide (t.v0 = doneState.v0), decide (t.v1 = doneState.v1), decide (t.st = doneState.st),
        decide (t.mode = doneState.mode), decide (t.rnd = doneState.rnd), decide (t.dv = doneState.dv)])) =
      some [false, false, false, false, false, false] ∧
    (after (exec .encA startedEnc)).map
      (fun t => (decide (t.sum = startedEnc.sum), decide (t.phase = startedEnc.phase))) = some (false, false) := by
  decide

/-- KeyStableWhileBusy: one step of an operation in progress, and a SETKEY that changes the key. -/
theorem witness_KeyStableWhileBusy :
    (NoReset [InPorts.idle] ∧ [InPorts.idle].length ≤ remaining endingDec ∧
      (after (coreRun [InPorts.idle] endingDec)).isSome) ∧
    ((presented 0b01#2).rst = false ∧
      (after (coreStep (presented 0b01#2) doneState)).map (fun t => decide (t.k = doneState.k)) = some false) := by
  decide

/-- KeyValidFlagRule, DataValidFlagRule, ModeBitRule: a step under each clause. -/
theorem witness_FlagRules :
    (after (coreStep InPorts.reset doneState)).isSome ∧
    (after (coreStep (presented 0b01#2) State.reset)).isSome ∧
    (after (coreStep (presented 0b10#2) doneState)).isSome ∧
    (after (coreStep (presented 0b11#2) doneState)).isSome ∧
    (after (coreStep (presented 0b00#2) doneState)).isSome ∧
    ((after (coreStep InPorts.idle endingDec)).isSome ∧ endingDec.phase = .b ∧ endingDec.rnd.toNat + 1 = 32) ∧
    (after (coreStep InPorts.idle startedEnc)).isSome := by decide

/-- ControlIndependentOfData: two states that differ in all data; a next state and a fault. -/
theorem witness_ControlIndependentOfData :
    controlPart startedEnc = controlPart (busyState keyI .enc 0#6 .a 7#32 8#32 9#32) ∧
    (after (coreStep InPorts.idle startedEnc)).isSome ∧
    controlPart State.reset = controlPart { State.reset with v0 := 5#32, sum := 6#32 } ∧
    (faultOf (coreStep (presented 0b10#2) State.reset)).isSome := by decide

/-- ResetEventClearsControl, ResetAbortsAndForgetsKey. -/
theorem witness_ResetAborts : InPorts.reset.rst = true ∧ startedEnc.st = .busy ∧
    (after (coreStep InPorts.reset startedEnc)).isSome ∧ NoReset [InPorts.idle, presented 0b00#2] ∧
    (∀ q ∈ [InPorts.idle, presented 0b00#2], q.cmdValid = true → q.cmd = 0b00#2) ∧
    (blockCommand (.encipher 1#32 2#32)).isSome := by decide

/-- StepKeepsInvariant: a step of a state that has the invariant. -/
theorem witness_StepKeepsInvariant : StateInv Config.delta startedEnc ∧ (after (step startedEnc)).isSome :=
  ⟨witness_startedEnc_inv, by decide⟩

/-- ReachableStatesSatisfyR39: a run of two steps from reset. -/
theorem witness_ReachableStatesSatisfyR39 :
    (after (stepRun 2 ({ State.reset with script := [.command (presented 0b01#2), .command (presented 0b10#2)] } :
      State))).isSome := by decide

/-- AccumulatorTrajectory (lengths 0 and 64), BlockOperationsComputeCipher. -/
theorem witness_BlockOperations : (idleState keyV1).st = .idle ∧ (idleState keyV1).kv = true ∧
    NoReset (List.replicate 64 (presented 0b01#2)) ∧ (List.replicate 64 (presented 0b01#2)).length = 64 ∧
    NoReset ([] : List InPorts) ∧ ([] : List InPorts).length ≤ 64 := by decide

/-- BlockOperationCompletes: each clause. -/
theorem witness_BlockOperationCompletes :
    ((blockCommand (.decipher 1#32 2#32)).isSome ∧ doneState.st = .idle ∧ doneState.kv = true) ∧
    (NoReset [InPorts.idle] ∧ [InPorts.idle].length = remaining endingDec) ∧
    (NoReset ([] : List InPorts) ∧ ([] : List InPorts).length < remaining endingDec) ∧
    ((after (coreStep (presented 0b10#2) doneState)).map (fun t => t.st) = some .busy ∧
      (after (coreStep (presented 0b11#2) doneState)).map (fun t => t.st) = some .busy) ∧
    (endingDec.dv = false ∧ (after (coreStep InPorts.idle endingDec)).map (fun t => t.dv) = some true) := by
  decide

/-- ResultDependsOnKeyAndOperandsOnly: two cores that share only the key. -/
theorem witness_ResultDependsOnKeyAndOperandsOnly :
    (blockCommand (.encipher 1#32 2#32)).isSome ∧ (idleState keyV1).st = .idle ∧ doneState.st = .idle ∧
    (idleState keyV1).kv = true ∧ doneState.kv = true ∧ (idleState keyV1).k = doneState.k ∧
    NoReset (List.replicate 64 InPorts.idle) ∧ NoReset (List.replicate 64 (presented 0b01#2)) ∧
    (List.replicate 64 InPorts.idle).length = 64 ∧ (List.replicate 64 (presented 0b01#2)).length = 64 ∧
    idleState keyV1 ≠ doneState := by decide

/-- ResultStaysUntilNextBlockCommand, KeyNotReadBack: NOP and SETKEY, two keys. -/
theorem witness_ResultStays : doneState.st = .idle ∧ NoReset [presented 0b00#2, presented 0b01#2, InPorts.idle] ∧
    NoBlockCommand [presented 0b00#2, presented 0b01#2, InPorts.idle] ∧
    (let s : State := { doneState with k := keyI, sum := 1#32, mode := .dec }
     s.st = .idle ∧ s.dv = doneState.dv ∧ s.v0 = doneState.v0 ∧ s.v1 = doneState.v1 ∧ s.k ≠ doneState.k) := by
  decide

/-- ScriptLinesDrivePorts: a step under each kind of line. -/
theorem witness_ScriptLinesDrivePorts :
    (after (step { doneState with script := [.drive (presented 0b00#2)] })).isSome ∧
    (after (step { doneState with script := [.command (presented 0b10#2)] })).isSome ∧
    (after (step { startedEnc with script := [.command (presented 0b10#2)] })).isSome ∧
    (after (step { startedEnc with script := [.wait] })).map (fun t => t.script) = some [.wait] ∧
    (after (step { endingDec with script := [.wait] })).map (fun t => t.script) = some [] ∧
    (after (step { doneState with script := [.read] })).isSome ∧
    (after (step { startedEnc with script := [.reset] })).isSome := by decide

/-- HeldCommandTakesEffectOnce; a command that completes in every idle state. -/
theorem witness_HeldCommandTakesEffectOnce :
    StateInv Config.delta { endingDec with script := [.command (presented 0b00#2)] } ∧
    ({ endingDec with script := [.command (presented 0b00#2)] } : State).st = .busy ∧
    (after (exec (decodeCmd (presented 0b00#2)) doneState)).isSome :=
  ⟨by constructor <;> decide, by decide, by decide⟩

/-- BlockScriptReadsCipher, BufferScriptMatchesFunction. -/
theorem witness_BlockScript :
    (let s : State := { idleState keyV1 with script := encipherBlockScript (1#32, 2#32) ++ [.wait] }
     s.st = .idle ∧ s.kv = true ∧ s.script = encipherBlockScript (1#32, 2#32) ++ [.wait]) ∧
    (let s : State := { idleState keyV1 with script := decipherBlockScript (1#32, 2#32) ++ [] }
     s.st = .idle ∧ s.kv = true ∧ s.script = decipherBlockScript (1#32, 2#32) ++ []) ∧
    (let input : List Byte := List.replicate 16 0x0A#8
     let s : State := { idleState keyV1 with script := encipherBufferScript .be input input ++ [] }
     s.st = .idle ∧ s.kv = true ∧
       s.script = encipherBufferScript .be input input ++ []) ∧
    (let s : State := { idleState keyV1 with script := decipherBufferScript .le [] [1#8] ++ [.read] }
     s.st = .idle ∧ s.kv = true ∧ s.script = decipherBufferScript .le [] [1#8] ++ [.read]) := by decide

/-- StreamScriptMatchesFunction: a sink that fails, and none. -/
theorem witness_StreamScript :
    (let s : State := { idleState keyV1 with script := encipherStreamScript .be (List.replicate 20 7#8) (some (1, 5)) ++ [] }
     s.st = .idle ∧ s.kv = true ∧ s.script = encipherStreamScript .be (List.replicate 20 7#8) (some (1, 5)) ++ []) ∧
    (let s : State := { idleState keyV1 with script := decipherStreamScript .le [7#8] none ++ [.wait] }
     s.st = .idle ∧ s.kv = true ∧ s.script = decipherStreamScript .le [7#8] none ++ [.wait]) := by decide

/-- MachineAtEveryDelta: the clauses with hypotheses, at a `DELTA` that is not the default. -/
theorem witness_MachineAtEveryDelta :
    ((.encB : Instr) ≠ .encA ∧ (.encB : Instr) ≠ .decA ∧ ∀ a b, (.encB : Instr) ≠ .decipher a b) ∧
    (doneState.st = .idle ∧ doneState.kv = true) ∧
    (StateInv 1#32 startedEnc ∧ (after (machineStep startedEnc 1#32)).isSome) ∧
    ((idleState keyV1).st = .idle ∧ (idleState keyV1).kv = true ∧
      NoReset (List.replicate 64 InPorts.idle) ∧ (List.replicate 64 InPorts.idle).length = 64) :=
  ⟨⟨by decide, by decide, nofun⟩, by decide, ⟨by constructor <;> decide, by decide⟩, by decide⟩

/-- RunHasOneEndState: a run that ends, and one that faults. -/
theorem witness_RunHasOneEndState :
    (∃ t, RunEndsIn (constructScript keyV1) t 1#32) ∧
    (after (stepRun 1 (runStart (constructScript keyV1)) 1#32)).map (fun t => (t.script, t.st)) = some ([], .idle) ∧
    (faultOf (stepRun 1 (runStart [.read]) 1#32)).isSome :=
  ⟨⟨_, 1, rfl⟩, by decide, by decide⟩

/-- BufferLengthChecked: a call that errs for each reason, one that does not, and a second chunk. -/
theorem witness_BufferLengthChecked :
    (encipherBuffer Config.delta keyV1 [1#8] [2#8] .le).error ≠ none ∧
    (decipherBuffer Config.delta keyV1 [] [2#8] .le).error ≠ none ∧
    (encipherBuffer Config.delta keyV1 [] [] .be).error = none ∧
    (((List.replicate 16 0x0A#8).drop (8 * 1)).take 8 =
      [0x0A#8, 0x0A#8, 0x0A#8, 0x0A#8, 0x0A#8, 0x0A#8, 0x0A#8, 0x0A#8]) := by decide

/-- BuffersDoNotChain, BufferRoundTrip: sixteen bytes and eight, and none. -/
theorem witness_Buffers : (List.replicate 16 0x0A#8).length % 8 = 0 ∧ (List.replicate 8 0x0A#8).length % 8 = 0 ∧
    (List.replicate 16 0#8).length = (List.replicate 16 0x0A#8).length ∧ (List.replicate 8 0#8).length = 8 ∧
    ([] : List Byte).length % 8 = 0 := by decide

/-- StreamsWriteWholeChunks: a sink that fails before the last chunk. -/
theorem witness_StreamsWriteWholeChunks : (1 : Nat) < (List.replicate 20 0x0A#8).length / 8 := by decide

end Sys2Proof.Tests
end

section
/-! The word operators of rule R10 as arithmetic on numbers, one equation per operator, and the
statement that collects them. -/

namespace Sys2Proof.Machine

@[simp] theorem toNat_add32 (a b : Word) : (add32 a b).toNat = (a.toNat + b.toNat) % 2 ^ 32 :=
  BitVec.toNat_add a b

@[simp] theorem toNat_sub32 (a b : Word) :
    (sub32 a b).toNat = (a.toNat + 2 ^ 32 - b.toNat) % 2 ^ 32 := by
  have hb : b.toNat < 2 ^ 32 := b.isLt
  rw [sub32, BitVec.toNat_sub]
  congr 1
  omega

@[simp] theorem toNat_mul32 (a b : Word) : (mul32 a b).toNat = (a.toNat * b.toNat) % 2 ^ 32 :=
  BitVec.toNat_mul a b

@[simp] theorem toNat_shl32 (a : Word) (n : Nat) : (shl32 a n).toNat = (a.toNat * 2 ^ n) % 2 ^ 32 := by
  rw [shl32, BitVec.toNat_shiftLeft, Nat.shiftLeft_eq]

@[simp] theorem toNat_shr32 (a : Word) (n : Nat) : (shr32 a n).toNat = a.toNat / 2 ^ n := by
  rw [shr32, BitVec.toNat_ushiftRight, Nat.shiftRight_eq_div_pow]

@[simp] theorem toNat_xor32 (a b : Word) : (xor32 a b).toNat = a.toNat ^^^ b.toNat :=
  BitVec.toNat_xor a b

@[simp] theorem toNat_and32 (a b : Word) : (and32 a b).toNat = a.toNat &&& b.toNat :=
  BitVec.toNat_and a b

/-- The index mask keeps a word modulo 4 (rule R76). -/
theorem toNat_and32_three (a : Word) : (and32 a 3#32).toNat = a.toNat % 4 :=
  (toNat_and32 a 3#32).trans (Nat.and_two_pow_sub_one_eq_mod a.toNat 2)

/-- Settles O5: each operator's own equation. -/
theorem wordOperatorsExact : Obligations.WordOperatorsExact := by
  intro a b n _
  exact ⟨toNat_add32 a b, toNat_sub32 a b, toNat_mul32 a b, toNat_shl32 a n, toNat_shr32 a n,
    toNat_xor32 a b, toNat_and32 a b, toNat_and32_three a⟩

end Sys2Proof.Machine
end

section
/-! The accumulator's trajectory as a function of the direction and of the number of A half-rounds
done (rule R120), and the invariant of rule R39 stated through it, once for a busy core and once for
an idle one. -/

namespace Sys2Proof.Machine

/-- `SUM` after `n` A half-rounds of a block operation (items 5 to 7 of rule R39). -/
def sumAfter (delta : Word) : Mode → Nat → Word
  | .enc, n => mul32 delta (BitVec.ofNat 32 n)
  | .dec, n => mul32 delta (BitVec.ofNat 32 (32 - n))

theorem mul32_ofNat_succ (delta : Word) (n : Nat) :
    mul32 delta (BitVec.ofNat 32 (n + 1)) = add32 (mul32 delta (BitVec.ofNat 32 n)) delta := by
  simp only [mul32, add32, BitVec.ofNat_add, BitVec.mul_add, BitVec.mul_one]

theorem sumAfter_enc_zero (delta : Word) : sumAfter delta .enc 0 = Config.sum0Enc := BitVec.mul_zero

theorem sumAfter_dec_zero (delta : Word) : sumAfter delta .dec 0 = sum0Dec delta := rfl

theorem sumAfter_enc_succ (delta : Word) (n : Nat) :
    sumAfter delta .enc (n + 1) = add32 (sumAfter delta .enc n) delta :=
  mul32_ofNat_succ delta n

theorem sumAfter_dec_succ (delta : Word) {n : Nat} (hn : n < 32) :
    sumAfter delta .dec (n + 1) = sub32 (sumAfter delta .dec n) delta := by
  have hback : 32 - n = 32 - (n + 1) + 1 := by omega
  simp only [sumAfter]
  rw [hback, mul32_ofNat_succ, sub32, add32, BitVec.add_sub_cancel]

theorem sumAfter_last (delta : Word) (m : Mode) :
    sumAfter delta m 32 = if m = .enc then sum0Dec delta else 0#32 := by
  cases m
  · rfl
  · exact BitVec.mul_zero

/-- The invariant of a busy core: the flags, and the accumulator on its trajectory. -/
theorem stateInv_iff_of_busy {delta : Word} {s : State} (hs : s.st = .busy) :
    StateInv delta s ↔ s.kv = true ∧ s.dv = false ∧ s.rnd.toNat ≤ 31 ∧
      s.sum = sumAfter delta s.mode (s.rnd.toNat + phaseNat s.phase) := by
  constructor
  · intro h
    obtain ⟨hkv, hdv, hrnd⟩ := h.busy_flags hs
    refine ⟨hkv, hdv, hrnd, ?_⟩
    cases hm : s.mode
    · exact h.enc_sum hs hm
    · rw [h.dec_sum hs hm, Nat.sub_sub, sumAfter]
  · rintro ⟨hkv, hdv, hrnd, hsum⟩
    exact {
      rnd_le := by omega
      idle_rest := fun hi => by simp [hs] at hi
      busy_flags := fun _ => ⟨hkv, hdv, hrnd⟩
      valid_done := fun hd => by simp [hdv] at hd
      enc_sum := fun _ hm => by rw [hsum, hm, sumAfter]
      dec_sum := fun _ hm => by rw [hsum, hm, sumAfter, Nat.sub_sub]
      valid_sum := fun hd => by simp [hdv] at hd }

/-- The invariant of an idle core: at a round boundary, and a valid result has the accumulator at its
end. -/
theorem stateInv_iff_of_idle {delta : Word} {s : State} (hs : s.st = .idle) :
    StateInv delta s ↔ s.phase = .a ∧ (s.rnd = 0#6 ∨ s.rnd = 32#6) ∧
      (s.dv = true → s.rnd = 32#6 ∧ s.kv = true ∧ s.sum = sumAfter delta s.mode 32) := by
  constructor
  · intro h
    obtain ⟨hphase, hrnd⟩ := h.idle_rest hs
    refine ⟨hphase, hrnd, fun hd => ?_⟩
    obtain ⟨-, hrnd32, hkv⟩ := h.valid_done hd
    exact ⟨hrnd32, hkv, (h.valid_sum hd).trans (sumAfter_last delta s.mode).symm⟩
  · rintro ⟨hphase, hrnd, hvalid⟩
    exact {
      rnd_le := by rcases hrnd with h | h <;> simp [h]
      idle_rest := fun _ => ⟨hphase, hrnd⟩
      busy_flags := fun hb => by simp [hs] at hb
      valid_done := fun hd => ⟨hs, (hvalid hd).1, (hvalid hd).2.1⟩
      enc_sum := fun hb => by simp [hs] at hb
      dec_sum := fun hb => by simp [hs] at hb
      valid_sum := fun hd => (hvalid hd).2.2.trans (sumAfter_last delta s.mode) }

/-- The invariant speaks of the control part and the accumulator only. -/
theorem StateInv.congr {delta : Word} {s t : State} (h : StateInv delta s)
    (hcontrol : controlPart t = controlPart s) (hsum : t.sum = s.sum) : StateInv delta t := by
  simp only [controlPart, Control.mk.injEq] at hcontrol
  obtain ⟨hst, hmode, hrnd, hphase, hkv, hdv⟩ := hcontrol
  cases hs : s.st
  · rw [stateInv_iff_of_idle hs] at h
    rw [stateInv_iff_of_idle (hst.trans hs), hmode, hrnd, hphase, hkv, hdv, hsum]
    exact h
  · rw [stateInv_iff_of_busy hs] at h
    rw [stateInv_iff_of_busy (hst.trans hs), hmode, hrnd, hphase, hkv, hdv, hsum]
    exact h

end Sys2Proof.Machine
end

section
/-! The invariant of rule R39 at every `DELTA`: each operation of the core keeps it, hence a step of
the core, a run of the core, and a step of core and host. -/

namespace Sys2Proof.Machine

theorem resetEvent_stateInv (delta : Word) (s : State) : StateInv delta (resetEvent s) := by
  rw [stateInv_iff_of_idle (resetEvent_st s)]
  simp

theorem writeKey_stateInv {delta : Word} {s : State} (h : StateInv delta s) (hs : s.st = .idle)
    (k0 k1 k2 k3 : Word) : StateInv delta (writeKey k0 k1 k2 k3 s) := by
  rw [stateInv_iff_of_idle hs] at h
  obtain ⟨hphase, hrnd, hvalid⟩ := h
  rw [stateInv_iff_of_idle (by simpa using hs)]
  exact ⟨hphase, hrnd, fun hd => ⟨(hvalid hd).1, rfl, (hvalid hd).2.2⟩⟩

/-- An accepted block command establishes the invariant, whatever the state it was accepted in. -/
theorem beginBlock_loadBlock_stateInv {delta : Word} {s : State} (hkv : s.kv = true) (m : Mode)
    (a b : Word) : StateInv delta (beginBlock m (loadBlock a b (sumAfter delta m 0) s)) := by
  rw [stateInv_iff_of_busy (beginBlock_st m _)]
  simp [hkv, phaseNat]

theorem encHalfA_stateInv {delta : Word} {s : State} (h : StateInv delta s) (hs : s.st = .busy)
    (hmode : s.mode = .enc) (hphase : s.phase = .a) : StateInv delta (encHalfA delta s) := by
  rw [stateInv_iff_of_busy hs] at h
  obtain ⟨hkv, hdv, hrnd, hsum⟩ := h
  rw [hmode, hphase] at hsum
  rw [stateInv_iff_of_busy (by simpa using hs)]
  refine ⟨hkv, hdv, hrnd, ?_⟩
  simp only [encHalfA_sum, encHalfA_mode, encHalfA_rnd, encHalfA_phase, hmode, phaseNat]
  rw [sumAfter_enc_succ, hsum, phaseNat, Nat.add_zero]

theorem decHalfA_stateInv {delta : Word} {s : State} (h : StateInv delta s) (hs : s.st = .busy)
    (hmode : s.mode = .dec) (hphase : s.phase = .a) : StateInv delta (decHalfA delta s) := by
  rw [stateInv_iff_of_busy hs] at h
  obtain ⟨hkv, hdv, hrnd, hsum⟩ := h
  rw [hmode, hphase] at hsum
  rw [stateInv_iff_of_busy (by simpa using hs)]
  refine ⟨hkv, hdv, hrnd, ?_⟩
  simp only [decHalfA_sum, decHalfA_mode, decHalfA_rnd, decHalfA_phase, hmode, phaseNat]
  rw [sumAfter_dec_succ delta (by omega), hsum, phaseNat, Nat.add_zero]

theorem toNat_rnd_succ {r : BitVec 6} (h : r.toNat ≤ 31) : (r + 1#6).toNat = r.toNat + 1 := by
  rw [BitVec.toNat_add, BitVec.toNat_ofNat]
  omega

theorem completes_eq_false {r : BitVec 6} (h : r ≠ 31#6) : completes r = false :=
  Bool.eq_false_iff.2 (mt (completes_iff r).1 h)

/-- The end of a round, in either direction: the last one makes the core idle with the accumulator at
its end, another one leaves it busy at the next round's A half-round. -/
theorem endPhaseB_stateInv {delta : Word} {s : State} (h : StateInv delta s) (hs : s.st = .busy)
    (hphase : s.phase = .b) : StateInv delta (endPhaseB s) := by
  rw [stateInv_iff_of_busy hs] at h
  obtain ⟨hkv, hdv, hrnd, hsum⟩ := h
  rw [hphase] at hsum
  by_cases hlast : s.rnd = 31#6
  · have hc : completes s.rnd = true := (completes_iff s.rnd).2 hlast
    rw [hlast] at hsum
    rw [stateInv_iff_of_idle (by simp [hc])]
    exact ⟨rfl, Or.inr (by simp [hlast]), fun _ => ⟨by simp [hlast], hkv, hsum⟩⟩
  · have hc : completes s.rnd = false := completes_eq_false hlast
    have hlt : s.rnd.toNat ≠ 31 := fun he => hlast (BitVec.eq_of_toNat_eq he)
    rw [stateInv_iff_of_busy (by simp [hc, hs])]
    simp only [endPhaseB_kv, endPhaseB_dv, endPhaseB_rnd, endPhaseB_sum, endPhaseB_mode,
      endPhaseB_phase, hc, toNat_rnd_succ hrnd]
    exact ⟨hkv, hdv, by omega, hsum⟩

theorem encHalfB_stateInv {delta : Word} {s : State} (h : StateInv delta s) (hs : s.st = .busy)
    (hphase : s.phase = .b) : StateInv delta (encHalfB s) :=
  endPhaseB_stateInv (h.congr rfl rfl) hs hphase

theorem decHalfB_stateInv {delta : Word} {s : State} (h : StateInv delta s) (hs : s.st = .busy)
    (hphase : s.phase = .b) : StateInv delta (decHalfB s) :=
  endPhaseB_stateInv (h.congr rfl rfl) hs hphase

/-- A host can present commands only (rule R70). -/
theorem decodeCmd_format (p : InPorts) : (decodeCmd p).format = .cmd := by
  unfold decodeCmd
  split
  · rfl
  · split
    · rfl
    · split <;> rfl

theorem execWith_command_stateInv {delta : Word} {i : Instr} {s t : State} (hi : i.format = .cmd)
    (h : StateInv delta s) (hstep : execWith delta i s = .next t) : StateInv delta t := by
  rcases execWith_cases delta i s with ⟨-, -, e⟩ | ⟨-, e⟩ | ⟨_, _, _, _, -, hs, e⟩ |
    ⟨a, b, -, -, hkv, e⟩ | ⟨a, b, -, -, hkv, e⟩ | ⟨-, -, -, e⟩ | ⟨rfl, -⟩ | ⟨rfl, -⟩ | ⟨rfl, -⟩ |
    ⟨rfl, -⟩
  · rw [e] at hstep; cases hstep; exact h
  · rw [e] at hstep; cases hstep; exact h
  · rw [e] at hstep; cases hstep; exact writeKey_stateInv h hs ..
  · rw [e, ← sumAfter_enc_zero delta] at hstep
    cases hstep
    exact beginBlock_loadBlock_stateInv hkv .enc a b
  · rw [e, ← sumAfter_dec_zero] at hstep
    cases hstep
    exact beginBlock_loadBlock_stateInv hkv .dec a b
  · rw [e] at hstep; cases hstep
  all_goals cases hi -- a micro-operation is no command

theorem busyStep_stateInv {delta : Word} {p : InPorts} {s t : State} (hp : p.rst = false)
    (hs : s.st = .busy) (h : StateInv delta s) (hstep : coreStep p s delta = .next t) :
    StateInv delta t := by
  rcases coreStep_busy_cases hp hs delta with ⟨hm, hph, e⟩ | ⟨-, hph, e⟩ | ⟨hm, hph, e⟩ | ⟨-, hph, e⟩
  · rw [e] at hstep; cases hstep; exact encHalfA_stateInv h hs hm hph
  · rw [e] at hstep; cases hstep; exact encHalfB_stateInv h hs hph
  · rw [e] at hstep; cases hstep; exact decHalfA_stateInv h hs hm hph
  · rw [e] at hstep; cases hstep; exact decHalfB_stateInv h hs hph

theorem coreStep_stateInv {delta : Word} {p : InPorts} {s t : State} (h : StateInv delta s)
    (hstep : coreStep p s delta = .next t) : StateInv delta t := by
  cases hp : p.rst
  · cases hs : s.st
    · cases hv : p.cmdValid
      · rw [coreStep_nothing hp hs hv] at hstep; cases hstep; exact h
      · rw [coreStepWith_command hp hs hv] at hstep
        exact execWith_command_stateInv (decodeCmd_format p) h hstep
    · exact busyStep_stateInv hp hs h hstep
  · rw [coreStep_reset hp s delta] at hstep; cases hstep; exact resetEvent_stateInv delta s

theorem coreRun_stateInv {delta : Word} {ps : List InPorts} {s t : State} (h : StateInv delta s)
    (hrun : coreRun ps s delta = .next t) : StateInv delta t := by
  induction ps generalizing s with
  | nil => cases hrun; exact h
  | cons p ps ih =>
    cases hp : coreStep p s delta with
    | next u => exact ih (coreStep_stateInv h hp) ((coreRun_cons_next hp).symm.trans hrun)
    | fault r => simp [coreRun, hp] at hrun
    | refused r => exact absurd hp (coreStep_not_refused p s r delta)

theorem machineStep_stateInv {delta : Word} {s t : State} (h : StateInv delta s)
    (hstep : machineStep s delta = .next t) : StateInv delta t := by
  rcases machineStep_cases s delta with ⟨-, -, e⟩ | ⟨-, u, hu, e⟩ | ⟨-, r, -, e⟩
  · rw [e] at hstep; cases hstep
  · rw [e] at hstep; cases hstep; exact (coreStep_stateInv h hu).congr rfl rfl
  · rw [e] at hstep; cases hstep

end Sys2Proof.Machine
end

section
/-! The block operations compute the block functions at every `DELTA` (rules R93, R94, R119): one
round of micro-operations is one repetition of the loop body of rule R96 or R97, and the 32nd leaves
the completed state. -/

namespace Sys2Proof.Machine

/-- The loop variables of rules R96 and R97 as the core holds them. -/
def loopVars (s : State) : LoopVars := { v0 := s.v0, v1 := s.v1, sum := s.sum }

/-- A state with the given loop variables in its data registers. -/
def setLoopVars (w : LoopVars) (s : State) : State := { s with v0 := w.v0, v1 := w.v1, sum := w.sum }

/-- The loop body of a direction: rule R96 or rule R97. -/
def roundBody (delta : Word) (k : KeyFile) : Mode → LoopVars → LoopVars
  | .enc => encBody delta k
  | .dec => decBody delta k

theorem encLoop_eq_iterate (delta : Word) (k : KeyFile) (n : Nat) (w : LoopVars) :
    encLoop delta k n w = (roundBody delta k .enc)^[n] w := by
  induction n generalizing w with
  | zero => rfl
  | succ n ih => exact ih _

theorem decLoop_eq_iterate (delta : Word) (k : KeyFile) (n : Nat) (w : LoopVars) :
    decLoop delta k n w = (roundBody delta k .dec)^[n] w := by
  induction n generalizing w with
  | zero => rfl
  | succ n ih => exact ih _

/-- What one round leaves: the loop body's variables and the sequencer at the end of the round. -/
def afterRound (delta : Word) (s : State) : State :=
  endPhaseB (setLoopVars (roundBody delta s.k s.mode (loopVars s)) s)

@[simp] theorem afterRound_k (delta : Word) (s : State) : (afterRound delta s).k = s.k := rfl
@[simp] theorem afterRound_mode (delta : Word) (s : State) : (afterRound delta s).mode = s.mode := rfl
@[simp] theorem afterRound_rnd (delta : Word) (s : State) : (afterRound delta s).rnd = s.rnd + 1#6 := rfl
@[simp] theorem afterRound_phase (delta : Word) (s : State) : (afterRound delta s).phase = .a := rfl
@[simp] theorem loopVars_afterRound (delta : Word) (s : State) :
    loopVars (afterRound delta s) = roundBody delta s.k s.mode (loopVars s) := rfl

/-- Completing after a round completes the state before it: a round writes nothing else. -/
@[simp] theorem completed_afterRound (r : Word × Word) (e delta : Word) (s : State) :
    completed r e (afterRound delta s) = completed r e s := rfl

theorem afterRound_st_of_not_last {s : State} (hs : s.st = .busy) (hrnd : s.rnd ≠ 31#6)
    (delta : Word) : (afterRound delta s).st = .busy := by
  rw [afterRound, endPhaseB_st]
  simpa [setLoopVars, completes_eq_false hrnd] using hs

/-- The 32nd round leaves the completed state (rule R118). -/
theorem afterRound_last {s : State} (hrnd : s.rnd = 31#6) (delta : Word) :
    afterRound delta s = completed (roundBody delta s.k s.mode (loopVars s)).block
      (roundBody delta s.k s.mode (loopVars s)).sum s := by
  have hc : completes 31#6 = true := (completes_iff 31#6).2 rfl
  simp [afterRound, endPhaseB, setLoopVars, completed, LoopVars.block, hrnd, hc]

theorem encHalfB_encHalfA {s : State} (hmode : s.mode = .enc) (delta : Word) :
    encHalfB (encHalfA delta s) = afterRound delta s := by
  rw [afterRound, hmode]; rfl

theorem decHalfB_decHalfA {s : State} (hmode : s.mode = .dec) (delta : Word) :
    decHalfB (decHalfA delta s) = afterRound delta s := by
  rw [afterRound, hmode]; rfl

/-- The two steps of a round: the A and then the B micro-operation of the direction (rule R117). -/
theorem coreRun_round {delta : Word} {p q : InPorts} {s : State} (hp : p.rst = false)
    (hq : q.rst = false) (hs : s.st = .busy) (hphase : s.phase = .a) (ps : List InPorts) :
    coreRun (p :: q :: ps) s delta = coreRun ps (afterRound delta s) delta := by
  cases hmode : s.mode
  · have hA : coreStep p s delta = .next (encHalfA delta s) := by
      rw [coreStepWith_busy hp hs, hmode, hphase, decodeUstep_enc_a]; rfl
    have hB : coreStep q (encHalfA delta s) delta = .next (encHalfB (encHalfA delta s)) := by
      rw [coreStepWith_busy hq ((encHalfA_st delta s).trans hs), encHalfA_mode, encHalfA_phase,
        hmode, decodeUstep_enc_b]; rfl
    rw [coreRun_cons_next hA, coreRun_cons_next hB, encHalfB_encHalfA hmode]
  · have hA : coreStep p s delta = .next (decHalfA delta s) := by
      rw [coreStepWith_busy hp hs, hmode, hphase, decodeUstep_dec_a]; rfl
    have hB : coreStep q (decHalfA delta s) delta = .next (decHalfB (decHalfA delta s)) := by
      rw [coreStepWith_busy hq ((decHalfA_st delta s).trans hs), decHalfA_mode, decHalfA_phase,
        hmode, decodeUstep_dec_b]; rfl
    rw [coreRun_cons_next hA, coreRun_cons_next hB, decHalfB_decHalfA hmode]

/-- From the start of a round with `n` rounds to go after it, the rounds to the end leave the
completed state with the loop body repeated `n + 1` times. -/
theorem coreRun_rounds {delta : Word} {n : Nat} {ps : List InPorts} {s : State}
    (hs : s.st = .busy) (hphase : s.phase = .a) (hrnd : s.rnd.toNat + n = 31) (hps : NoReset ps)
    (hlen : ps.length = 2 * (n + 1)) :
    coreRun ps s delta = .next (completed
      ((roundBody delta s.k s.mode)^[n + 1] (loopVars s)).block
      ((roundBody delta s.k s.mode)^[n + 1] (loopVars s)).sum s) := by
  induction n generalizing s ps with
  | zero =>
    obtain ⟨p, q, rfl⟩ := List.length_eq_two.1 hlen
    have hlast : s.rnd = 31#6 := BitVec.eq_of_toNat_eq hrnd
    rw [coreRun_round (hps p (by simp)) (hps q (by simp)) hs hphase, coreRun_nil,
      afterRound_last hlast, Function.iterate_one]
  | succ n ih =>
    match ps, hlen with
    | p :: q :: rest, hlen =>
      have hnot : s.rnd ≠ 31#6 := fun he => by simp [he] at hrnd
      have hrest : NoReset rest := fun r hr => hps r (by simp [hr])
      have hsucc : (afterRound delta s).rnd.toNat + n = 31 := by
        rw [afterRound_rnd, toNat_rnd_succ (by omega)]; omega
      have hlen' : rest.length = 2 * (n + 1) := by simp at hlen; omega
      rw [coreRun_round (hps p (by simp)) (hps q (by simp)) hs hphase,
        ih (afterRound_st_of_not_last hs hnot delta) (afterRound_phase delta s) hsucc hrest hlen']
      simp only [afterRound_k, afterRound_mode, loopVars_afterRound, completed_afterRound,
        ← Function.iterate_succ_apply]

/-- The 64 steps of a block operation compute 32 repetitions of the direction's loop body, and the
accumulator ends where item 7 of rule R39 says. -/
theorem coreRun_block {delta : Word} {ps : List InPorts} {s : State} (h : StateInv delta s)
    (hs : s.st = .busy) (hphase : s.phase = .a) (hrnd : s.rnd = 0#6) (hps : NoReset ps)
    (hlen : ps.length = 64) :
    coreRun ps s delta = .next (completed ((roundBody delta s.k s.mode)^[32] (loopVars s)).block
      (sumAfter delta s.mode 32) s) := by
  have hrun := coreRun_rounds (delta := delta) (n := 31) hs hphase (by simp [hrnd]) hps hlen
  obtain ⟨-, -, hvalid⟩ := (stateInv_iff_of_idle (completed_st _ _ _)).1 (coreRun_stateInv h hrun)
  obtain ⟨-, -, hsum⟩ := hvalid (completed_dv _ _ _)
  rw [completed_sum, completed_mode] at hsum
  rw [hrun, hsum]

theorem execWith_encipher_accepted {s : State} (hs : s.st = .idle) (hkv : s.kv = true)
    (delta a b : Word) : execWith delta (.encipher a b) s =
      .next (beginBlock .enc (loadBlock a b (sumAfter delta .enc 0) s)) := by
  rw [sumAfter_enc_zero]
  exact (accept_idle hs _).trans (acceptBlock_key hkv ..)

theorem execWith_decipher_accepted {s : State} (hs : s.st = .idle) (hkv : s.kv = true)
    (delta a b : Word) : execWith delta (.decipher a b) s =
      .next (beginBlock .dec (loadBlock a b (sumAfter delta .dec 0) s)) :=
  (accept_idle hs _).trans (acceptBlock_key hkv ..)

/-- ENCIPHER at every `DELTA` (rules R93, R119). -/
theorem coreRun_encipher {delta : Word} {s : State} {ps : List InPorts} (hkv : s.kv = true)
    (hps : NoReset ps) (hlen : ps.length = 64) (a b : Word) :
    coreRun ps (beginBlock .enc (loadBlock a b (sumAfter delta .enc 0) s)) delta =
      .next (completed (enc delta s.k a b) (mul32 delta 32#32)
        (beginBlock .enc (loadBlock a b (sumAfter delta .enc 0) s))) := by
  rw [coreRun_block (beginBlock_loadBlock_stateInv hkv .enc a b) (beginBlock_st _ _)
    (beginBlock_phase _ _) (beginBlock_rnd _ _) hps hlen, beginBlock_mode, ← encLoop_eq_iterate,
    sumAfter_last, sumAfter_enc_zero]
  rfl

/-- DECIPHER at every `DELTA` (rules R94, R119). -/
theorem coreRun_decipher {delta : Word} {s : State} {ps : List InPorts} (hkv : s.kv = true)
    (hps : NoReset ps) (hlen : ps.length = 64) (a b : Word) :
    coreRun ps (beginBlock .dec (loadBlock a b (sumAfter delta .dec 0) s)) delta =
      .next (completed (dec delta s.k a b) 0#32
        (beginBlock .dec (loadBlock a b (sumAfter delta .dec 0) s))) := by
  rw [coreRun_block (beginBlock_loadBlock_stateInv hkv .dec a b) (beginBlock_st _ _)
    (beginBlock_phase _ _) (beginBlock_rnd _ _) hps hlen, beginBlock_mode, ← decLoop_eq_iterate,
    sumAfter_last]
  rfl

end Sys2Proof.Machine
end

section
/-! The machine at every `DELTA`: where the constant acts, and the statement of the family. -/

namespace Sys2Proof.Machine

/-- `DELTA` has no effect but in ENC_A, DEC_A and DECIPHER. -/
theorem execWith_eq_exec {i : Instr} (hencA : i ≠ .encA) (hdecA : i ≠ .decA)
    (hdecipher : ∀ a b, i ≠ .decipher a b) (delta : Word) (s : State) :
    execWith delta i s = exec i s := by
  cases i with
  | encA => exact absurd rfl hencA
  | decA => exact absurd rfl hdecA
  | decipher a b => exact absurd rfl (hdecipher a b)
  | nop | setkey | encipher | encB | decB => rfl

theorem execWith_encA_delta (delta : Word) (s : State) : ∃ t, exec .encA s = .next t ∧
    execWith delta .encA s = .next { t with sum := s.sum + delta } :=
  ⟨encHalfA Config.delta s, rfl, rfl⟩

theorem execWith_decA_delta (delta : Word) (s : State) : ∃ t, exec .decA s = .next t ∧
    execWith delta .decA s = .next { t with sum := s.sum - delta } :=
  ⟨decHalfA Config.delta s, rfl, rfl⟩

theorem execWith_decipher_delta {s : State} (hs : s.st = .idle) (hkv : s.kv = true)
    (delta a b : Word) : ∃ t, exec (.decipher a b) s = .next t ∧
      execWith delta (.decipher a b) s = .next { t with sum := delta * 32 } :=
  ⟨_, (execWith_default _ s).symm.trans (execWith_decipher_accepted hs hkv Config.delta a b),
    execWith_decipher_accepted hs hkv delta a b⟩

/-- Settles O57: the invariant by the step lemma, the block functions by the rounds of a block
operation. -/
theorem machineAtEveryDelta : Obligations.MachineAtEveryDelta := by
  refine ⟨fun i s => (execWith_default i s).symm, fun s => (machineStep_default s).symm,
    fun delta => ⟨fun i s hencA hdecA hdecipher => execWith_eq_exec hencA hdecA hdecipher delta s,
      fun s => ⟨execWith_encA_delta delta s, execWith_decA_delta delta s,
        fun a b hs hkv => execWith_decipher_delta hs hkv delta a b⟩,
      fun s t => machineStep_stateInv, ?_⟩⟩
  intro a b s ps hs hkv hps hlen
  exact ⟨⟨_, execWith_encipher_accepted hs hkv delta a b, coreRun_encipher hkv hps hlen a b⟩,
    ⟨_, execWith_decipher_accepted hs hkv delta a b, coreRun_decipher hkv hps hlen a b⟩⟩

end Sys2Proof.Machine
end

section
/-! The invariant of rule R39 at the machine's `DELTA`: at reset, over a step, over a run from reset. -/

namespace Sys2Proof.Machine

/-- Settles O36: the core keeps the invariant under whatever the script drives (`coreStep_stateInv`),
and the host's own data are no part of it. -/
theorem stepKeepsInvariant : Obligations.StepKeepsInvariant :=
  fun _ _ hinv hstep => machineStep_stateInv hinv hstep

theorem reset_stateInv (delta : Word) : StateInv delta State.reset := by
  rw [stateInv_iff_of_idle reset_st]
  simp

/-- Settles O35: the reset state is idle at a round boundary and has no valid result. -/
theorem invariantAtReset : Obligations.InvariantAtReset := reset_stateInv Config.delta

theorem stepRun_stateInv {delta : Word} {n : Nat} {s t : State} (h : StateInv delta s)
    (hrun : stepRun n s delta = .next t) : StateInv delta t := by
  induction n generalizing s with
  | zero => cases hrun; exact h
  | succ n ih =>
    cases hs : machineStep s delta with
    | next u => exact ih (machineStep_stateInv h hs) ((stepRunWith_succ_next hs).symm.trans hrun)
    | fault r => simp [stepRun, hs] at hrun
    | refused r => simp [stepRun, hs] at hrun

/-- Placing a script changes neither the control part nor the accumulator. -/
theorem runStart_stateInv (delta : Word) (script : List HostAction) :
    StateInv delta (runStart script) :=
  (reset_stateInv delta).congr rfl rfl

/-- Settles O37: every step of the run keeps the invariant its start has. -/
theorem reachableStatesSatisfyR39 : Obligations.ReachableStatesSatisfyR39 :=
  fun script _ _ hrun => stepRun_stateInv (runStart_stateInv Config.delta script) hrun

end Sys2Proof.Machine
end

section
/-! Reset (rules R38, R170): the reset state and the reset event. -/

namespace Sys2Proof.Machine

/-- Settles O32: the control bits and the ports read off the reset state. -/
theorem resetStateControl : Obligations.ResetStateControl :=
  ⟨rfl, rfl, rfl, readResult_invalid reset_dv⟩

theorem controlPart_resetEvent (s : State) :
    controlPart (resetEvent s) = ⟨.idle, .enc, 0#6, .a, false, false⟩ := rfl

/-- The seven data registers take the next seven free values (notes/assumptions/3.md). -/
theorem resetEvent_data (s : State) :
    [(resetEvent s).k.k0, (resetEvent s).k.k1, (resetEvent s).k.k2, (resetEvent s).k.k3,
      (resetEvent s).v0, (resetEvent s).v1, (resetEvent s).sum] =
    (List.range 7).map fun j => Config.resetWord (s.freeNext + j) := rfl

/-- Settles O33: the step is the reset event in every state. -/
theorem resetEventClearsControl : Obligations.ResetEventClearsControl :=
  fun _ s hrst => ⟨resetEvent s, coreStep_reset hrst s, controlPart_resetEvent s, resetEvent_script s,
    resetEvent_results s, resetEvent_data s, resetEvent_freeNext s⟩

end Sys2Proof.Machine
end

section
/-! A completed step of the core, turned round (rule R154): the ten moves it can be, each with the
ports and the state it is made under. -/

namespace Sys2Proof.Machine

theorem cmd_cases (c : BitVec 2) : c = 0b00#2 ∨ c = 0b01#2 ∨ c = 0b10#2 ∨ c = 0b11#2 := by
  revert c; decide

theorem decodeCmd_nop {p : InPorts} (h : p.cmd = 0b00#2) : decodeCmd p = .nop := by
  simp [decodeCmd, h]

theorem decodeCmd_setkey {p : InPorts} (h : p.cmd = 0b01#2) :
    decodeCmd p = .setkey p.kin0 p.kin1 p.kin2 p.kin3 := by
  simp [decodeCmd, h]

theorem decodeCmd_encipher {p : InPorts} (h : p.cmd = 0b10#2) :
    decodeCmd p = .encipher p.din0 p.din1 := by
  simp [decodeCmd, h]

theorem decodeCmd_decipher {p : InPorts} (h : p.cmd = 0b11#2) :
    decodeCmd p = .decipher p.din0 p.din1 := by
  simp [decodeCmd, h]

/-- What one step of the core with port values `p` can make of `s`. -/
inductive CoreMove (delta : Word) (p : InPorts) (s : State) : State → Prop
  /-- Reset comes before all else (rule R170). -/
  | reset (hrst : p.rst = true) : CoreMove delta p s (resetEvent s)
  /-- Rule R113. -/
  | encA (hrst : p.rst = false) (hst : s.st = .busy) (hmode : s.mode = .enc) (hphase : s.phase = .a) :
      CoreMove delta p s (encHalfA delta s)
  /-- Rule R114. -/
  | encB (hrst : p.rst = false) (hst : s.st = .busy) (hmode : s.mode = .enc) (hphase : s.phase = .b) :
      CoreMove delta p s (encHalfB s)
  /-- Rule R115. -/
  | decA (hrst : p.rst = false) (hst : s.st = .busy) (hmode : s.mode = .dec) (hphase : s.phase = .a) :
      CoreMove delta p s (decHalfA delta s)
  /-- Rule R116. -/
  | decB (hrst : p.rst = false) (hst : s.st = .busy) (hmode : s.mode = .dec) (hphase : s.phase = .b) :
      CoreMove delta p s (decHalfB s)
  /-- An idle core with no command on its port (rule R90). -/
  | nothing (hrst : p.rst = false) (hst : s.st = .idle) (hvalid : p.cmdValid = false) :
      CoreMove delta p s s
  /-- Rule R91. -/
  | nop (hrst : p.rst = false) (hst : s.st = .idle) (hvalid : p.cmdValid = true)
      (hcmd : p.cmd = 0b00#2) : CoreMove delta p s s
  /-- Rule R92. -/
  | setkey (hrst : p.rst = false) (hst : s.st = .idle) (hvalid : p.cmdValid = true)
      (hcmd : p.cmd = 0b01#2) : CoreMove delta p s (writeKey p.kin0 p.kin1 p.kin2 p.kin3 s)
  /-- Rule R93, with the key rule R156 asks for. -/
  | encipher (hrst : p.rst = false) (hst : s.st = .idle) (hvalid : p.cmdValid = true)
      (hcmd : p.cmd = 0b10#2) (hkv : s.kv = true) :
      CoreMove delta p s (beginBlock .enc (loadBlock p.din0 p.din1 (sumAfter delta .enc 0) s))
  /-- Rule R94, with the key rule R156 asks for. -/
  | decipher (hrst : p.rst = false) (hst : s.st = .idle) (hvalid : p.cmdValid = true)
      (hcmd : p.cmd = 0b11#2) (hkv : s.kv = true) :
      CoreMove delta p s (beginBlock .dec (loadBlock p.din0 p.din1 (sumAfter delta .dec 0) s))

variable {delta : Word} {p : InPorts} {s t : State}

theorem execWith_nop (hs : s.st = .idle) : execWith delta .nop s = .next s := accept_idle hs _

theorem execWith_setkey (hs : s.st = .idle) (k0 k1 k2 k3 : Word) :
    execWith delta (.setkey k0 k1 k2 k3) s = .next (writeKey k0 k1 k2 k3 s) :=
  accept_idle hs fun u => .next (writeKey k0 k1 k2 k3 u)

/-- A block command that completes on an idle core had a key (rule R156). -/
theorem kv_of_execWith_blockCommand {i : Instr} (hi : (blockCommand i).isSome) (hs : s.st = .idle)
    (h : execWith delta i s = .next t) : s.kv = true := by
  cases hk : s.kv
  · cases i with
    | encipher a b => cases ((accept_idle hs _).trans (acceptBlock_noKey hk ..)).symm.trans h
    | decipher a b => cases ((accept_idle hs _).trans (acceptBlock_noKey hk ..)).symm.trans h
    | nop | setkey | encA | encB | decA | decB => cases hi
  · rfl

theorem coreMove_of_coreStep_command (hp : p.rst = false) (hs : s.st = .idle) (hv : p.cmdValid = true)
    (h : coreStep p s delta = .next t) : CoreMove delta p s t := by
  rw [coreStepWith_command hp hs hv] at h
  rcases cmd_cases p.cmd with hc | hc | hc | hc
  · rw [decodeCmd_nop hc, execWith_nop hs] at h
    cases h; exact .nop hp hs hv hc
  · rw [decodeCmd_setkey hc, execWith_setkey hs] at h
    cases h; exact .setkey hp hs hv hc
  · rw [decodeCmd_encipher hc] at h
    have hkv := kv_of_execWith_blockCommand rfl hs h
    rw [execWith_encipher_accepted hs hkv] at h
    cases h; exact .encipher hp hs hv hc hkv
  · rw [decodeCmd_decipher hc] at h
    have hkv := kv_of_execWith_blockCommand rfl hs h
    rw [execWith_decipher_accepted hs hkv] at h
    cases h; exact .decipher hp hs hv hc hkv

theorem coreMove_of_coreStep_busy (hp : p.rst = false) (hs : s.st = .busy)
    (h : coreStep p s delta = .next t) : CoreMove delta p s t := by
  rcases coreStep_busy_cases hp hs delta with ⟨hm, hph, e⟩ | ⟨hm, hph, e⟩ | ⟨hm, hph, e⟩ | ⟨hm, hph, e⟩
  · rw [e] at h; cases h; exact .encA hp hs hm hph
  · rw [e] at h; cases h; exact .encB hp hs hm hph
  · rw [e] at h; cases h; exact .decA hp hs hm hph
  · rw [e] at h; cases h; exact .decB hp hs hm hph

/-- The completed steps of the core are the moves. -/
theorem coreStep_next_iff : coreStep p s delta = .next t ↔ CoreMove delta p s t := by
  constructor
  · intro h
    cases hp : p.rst
    · cases hs : s.st
      · cases hv : p.cmdValid
        · rw [coreStep_nothing hp hs hv] at h
          cases h; exact .nothing hp hs hv
        · exact coreMove_of_coreStep_command hp hs hv h
      · exact coreMove_of_coreStep_busy hp hs h
    · rw [coreStep_reset hp s delta] at h
      cases h; exact .reset hp
  · intro h
    cases h with
    | reset hp => exact coreStep_reset hp s delta
    | encA hp hs hm hph => rw [coreStepWith_busy hp hs, hm, hph, decodeUstep_enc_a]; rfl
    | encB hp hs hm hph => rw [coreStepWith_busy hp hs, hm, hph, decodeUstep_enc_b]; rfl
    | decA hp hs hm hph => rw [coreStepWith_busy hp hs, hm, hph, decodeUstep_dec_a]; rfl
    | decB hp hs hm hph => rw [coreStepWith_busy hp hs, hm, hph, decodeUstep_dec_b]; rfl
    | nothing hp hs hv => exact coreStep_nothing hp hs hv
    | nop hp hs hv hc => rw [coreStepWith_command hp hs hv, decodeCmd_nop hc, execWith_nop hs]
    | setkey hp hs hv hc => rw [coreStepWith_command hp hs hv, decodeCmd_setkey hc, execWith_setkey hs]
    | encipher hp hs hv hc hkv =>
      rw [coreStepWith_command hp hs hv, decodeCmd_encipher hc, execWith_encipher_accepted hs hkv]
    | decipher hp hs hv hc hkv =>
      rw [coreStepWith_command hp hs hv, decodeCmd_decipher hc, execWith_decipher_accepted hs hkv]

end Sys2Proof.Machine
end

section
/-! The key, its flag, `DV` and `MODE` after a step of the core as functions of the ports and the state
before it (rules R25, R30 to R32), and the statements about the three flags. -/

namespace Sys2Proof.Machine

section

variable {delta : Word} {p : InPorts} {s t : State}

/-- `K` after a step without reset (rule R25). -/
theorem CoreMove.k_eq (h : CoreMove delta p s t) (hp : p.rst = false) :
    t.k = if s.st = .idle ∧ p.cmdValid = true ∧ p.cmd = 0b01#2
      then ⟨p.kin0, p.kin1, p.kin2, p.kin3⟩ else s.k := by
  cases h with
  | reset hrst => simp [hrst] at hp
  | encA _ hs | encB _ hs | decA _ hs | decB _ hs => simp [hs]
  | nothing _ _ hv => simp [hv]
  | setkey _ hs hv hc => simp [hs, hv, hc]
  | nop _ _ _ hc | encipher _ _ _ hc | decipher _ _ _ hc => simp [hc]

/-- `KV` after a step (rule R31). -/
theorem CoreMove.kv_eq (h : CoreMove delta p s t) :
    t.kv = if p.rst = true then false
      else if s.st = .idle ∧ p.cmdValid = true ∧ p.cmd = 0b01#2 then true else s.kv := by
  cases h with
  | reset hp => simp [hp]
  | encA hp hs | encB hp hs | decA hp hs | decB hp hs => simp [hp, hs]
  | nothing hp _ hv => simp [hp, hv]
  | setkey hp hs hv hc => simp [hp, hs, hv, hc]
  | nop hp _ _ hc | encipher hp _ _ hc | decipher hp _ _ hc => simp [hp, hc]

theorem completes_iff_toNat (r : BitVec 6) : completes r = true ↔ r.toNat + 1 = 32 := by
  revert r; decide

/-- `DV` after a step (rule R32). -/
theorem CoreMove.dv_eq (h : CoreMove delta p s t) :
    t.dv = if p.rst = true then false
      else if s.st = .idle ∧ p.cmdValid = true ∧ (p.cmd = 0b10#2 ∨ p.cmd = 0b11#2) then false
      else if s.st = .busy ∧ s.phase = .b ∧ s.rnd.toNat + 1 = 32 then true else s.dv := by
  cases h with
  | reset hp => simp [hp]
  | encA hp hs _ hph | decA hp hs _ hph => simp [hp, hs, hph]
  | encB hp hs _ hph | decB hp hs _ hph => simp [hp, hs, hph, completes_iff_toNat]
  | nothing hp hs hv => simp [hp, hs, hv]
  | nop hp hs _ hc | setkey hp hs _ hc => simp [hp, hs, hc]
  | encipher hp hs hv hc | decipher hp hs hv hc => simp [hp, hs, hv, hc]

/-- `MODE` after a step (rule R30). -/
theorem CoreMove.mode_eq (h : CoreMove delta p s t) :
    t.mode = if p.rst = true then .enc
      else if s.st = .idle ∧ p.cmdValid = true ∧ p.cmd = 0b10#2 then .enc
      else if s.st = .idle ∧ p.cmdValid = true ∧ p.cmd = 0b11#2 then .dec else s.mode := by
  cases h with
  | reset hp => simp [hp]
  | encA hp hs | encB hp hs | decA hp hs | decB hp hs => simp [hp, hs]
  | nothing hp _ hv => simp [hp, hv]
  | nop hp _ _ hc | setkey hp _ _ hc => simp [hp, hc]
  | encipher hp hs hv hc | decipher hp hs hv hc => simp [hp, hs, hv, hc]

end

/-- Settles O28: the value of `KV` after a step, under each clause's hypotheses. -/
theorem keyValidFlagRule : Obligations.KeyValidFlagRule := by
  refine ⟨reset_kv, fun _ _ => rfl, fun p s t hstep => ?_⟩
  rw [(coreStep_next_iff.1 hstep).kv_eq]
  refine ⟨fun hp => if_pos hp, fun hp hs hv hc => ?_, fun hp hnot => ?_⟩
  · simp [hp, hs, hv, hc]
  · rw [if_neg (by simp [hp]), if_neg hnot]

/-- Settles O29: the value of `DV` after a step, under each clause's hypotheses. -/
theorem dataValidFlagRule : Obligations.DataValidFlagRule := by
  refine ⟨reset_dv, fun p s t hstep => ⟨rfl, ?_⟩⟩
  rw [(coreStep_next_iff.1 hstep).dv_eq]
  refine ⟨fun hp => if_pos hp, fun _ hs hv hc => ?_, fun hp hs hph hr => ?_, fun hp hnot hnotEnd => ?_⟩
  · simp [hs, hv, hc]
  · simp [hp, hs, hph, hr]
  · rw [if_neg (by simp [hp]), if_neg hnot, if_neg hnotEnd]

/-- Settles O30: the value of `MODE` after a step, under each clause's hypotheses. -/
theorem modeBitRule : Obligations.ModeBitRule := by
  refine ⟨reset_mode, fun _ _ => rfl, fun p s t hstep => ?_⟩
  rw [(coreStep_next_iff.1 hstep).mode_eq]
  refine ⟨fun hp => if_pos hp, fun _ hs hv hc => ?_, fun hp hs hv hc => ?_, fun hp hnot => ?_⟩
  · simp [hs, hv, hc]
  · simp [hp, hs, hv, hc]
  · rw [if_neg (by simp [hp]), if_neg fun h => hnot ⟨h.1, h.2.1, .inl h.2.2⟩,
      if_neg fun h => hnot ⟨h.1, h.2.1, .inr h.2.2⟩]

end Sys2Proof.Machine
end

section
/-! Who writes what: the frame of each instruction (rule R20), and the key during a block operation
(rule R25). -/

namespace Sys2Proof.Machine

/-- Settles O26: over the outcomes of an instruction, each of which leaves every other element as it
was. -/
theorem writtenOnlyByItsWriters : Obligations.WrittenOnlyByItsWriters := by
  intro i s t hexec
  rcases exec_cases i s with ⟨-, -, e⟩ | ⟨-, e⟩ | ⟨_, _, _, _, hi, -, e⟩ | ⟨_, _, hi, -, -, e⟩ |
    ⟨_, _, hi, -, -, e⟩ | ⟨-, -, -, e⟩ | ⟨hi, e⟩ | ⟨hi, e⟩ | ⟨hi, e⟩ | ⟨hi, e⟩ <;>
    rw [e] at hexec <;> cases hexec
  -- turned away, NOP: no element
  · simp
  · simp
  -- SETKEY: `K` and `KV`
  · simp [hi]
  -- a block command: `V0`, `V1`, `SUM` and the control bits but `KV`
  · simp [hi, blockCommand]
  · simp [hi, blockCommand]
  -- a micro-operation: one half of the block; A moves `SUM`, B ends a round
  · simp [hi, Instr.format]
  · simp [hi, Instr.format]
  · simp [hi, Instr.format]
  · simp [hi, Instr.format]

section

variable {delta : Word} {p : InPorts} {s t : State}

theorem busyStep_k (hp : p.rst = false) (hs : s.st = .busy) (h : coreStep p s delta = .next t) :
    t.k = s.k := by
  rw [(coreStep_next_iff.1 h).k_eq hp, if_neg (by simp [hs])]

/-- Each step of a block operation is one of its remaining micro-operations. -/
theorem busyStep_remaining (hinv : StateInv delta s) (hp : p.rst = false) (hs : s.st = .busy)
    (h : coreStep p s delta = .next t) : remaining t + 1 = remaining s := by
  obtain ⟨-, -, hrnd⟩ := hinv.busy_flags hs
  rcases coreStep_busy_cases hp hs delta with ⟨-, hph, e⟩ | ⟨-, hph, e⟩ | ⟨-, hph, e⟩ | ⟨-, hph, e⟩ <;>
    rw [e] at h <;> cases h
  · simp only [remaining, encHalfA_rnd, encHalfA_phase, hph, phaseNat]; omega
  · simp only [remaining, encHalfB_rnd, encHalfB_phase, hph, phaseNat, toNat_rnd_succ hrnd]; omega
  · simp only [remaining, decHalfA_rnd, decHalfA_phase, hph, phaseNat]; omega
  · simp only [remaining, decHalfB_rnd, decHalfB_phase, hph, phaseNat, toNat_rnd_succ hrnd]; omega

/-- An idle core stands before the first round or after the last. -/
theorem remaining_of_idle (hinv : StateInv delta s) (hs : s.st = .idle) :
    remaining s = 64 ∨ remaining s = 0 := by
  obtain ⟨hph, hrnd | hrnd⟩ := hinv.idle_rest hs
  · exact .inl (by simp [remaining, hph, hrnd, phaseNat])
  · exact .inr (by simp [remaining, hph, hrnd, phaseNat])

/-- The step that ends a block operation is its last micro-operation. -/
theorem busyStep_remaining_of_ends (hinv : StateInv delta s) (hp : p.rst = false) (hs : s.st = .busy)
    (h : coreStep p s delta = .next t) (ht : t.st = .idle) : remaining t = 0 := by
  have hone := busyStep_remaining hinv hp hs h
  have hle : remaining s ≤ 64 := Nat.sub_le ..
  have hrest := remaining_of_idle (busyStep_stateInv hp hs hinv h) ht
  omega

/-- The key over any part of what remains of a block operation (rule R25). -/
theorem coreRun_k_of_busy {ps : List InPorts} (hinv : StateInv delta s) (hs : s.st = .busy)
    (hps : NoReset ps) (hlen : ps.length ≤ remaining s) (hrun : coreRun ps s delta = .next t) :
    t.k = s.k := by
  induction ps generalizing s with
  | nil => cases hrun; rfl
  | cons p ps ih =>
    have hp : p.rst = false := hps p (by simp)
    cases hstep : coreStep p s delta with
    | next u =>
      rw [coreRun_cons_next hstep] at hrun
      have hk : u.k = s.k := busyStep_k hp hs hstep
      have hone := busyStep_remaining hinv hp hs hstep
      have hlen' : ps.length ≤ remaining u := by rw [List.length_cons] at hlen; omega
      cases hu : u.st
      · have hnil : ps = [] := by
          rw [busyStep_remaining_of_ends hinv hp hs hstep hu] at hlen'
          exact List.length_eq_zero_iff.1 (Nat.le_zero.1 hlen')
        subst hnil
        cases hrun; exact hk
      · exact (ih (busyStep_stateInv hp hs hinv hstep) hu (fun q hq => hps q (by simp [hq])) hlen'
          hrun).trans hk
    | fault r => simp [coreRun, hstep] at hrun
    | refused r => exact absurd hstep (coreStep_not_refused p s r delta)

end

/-- Settles O27: the run of the remaining micro-operations keeps the key, and in a single step only an
accepted SETKEY writes it. -/
theorem keyStableWhileBusy : Obligations.KeyStableWhileBusy := by
  refine ⟨fun ps s t hinv hs hps hlen hrun => coreRun_k_of_busy hinv hs hps hlen hrun, ?_⟩
  intro p s t hp hstep hchanged
  have hmove := coreStep_next_iff.1 hstep
  have hk := hmove.k_eq hp
  have hkv := hmove.kv_eq
  by_cases haccept : s.st = .idle ∧ p.cmdValid = true ∧ p.cmd = 0b01#2
  · rw [if_pos haccept] at hk
    rw [if_neg (by simp [hp]), if_pos haccept] at hkv
    exact ⟨haccept.1, haccept.2.1, haccept.2.2, hk, hkv⟩
  · rw [if_neg haccept] at hk
    exact absurd hk hchanged

end Sys2Proof.Machine
end

section
/-! What the result of a block operation depends on (rule R99), and what an idle core's ports do not
show (rule R40). -/

namespace Sys2Proof.Machine

/-- A block command with its operands is a function of the key: its result on every idle core that
holds the key, whatever else is there and whatever the host drives. -/
theorem exists_result_of_key {i : Instr} (hi : (blockCommand i).isSome) :
    ∃ f : KeyFile → Word × Word, ∀ (s : State) (ps : List InPorts), s.st = .idle → s.kv = true →
      NoReset ps → ps.length = 64 →
      ∃ t u, exec i s = .next t ∧ coreRun ps t = .next u ∧ readResult u = some (f s.k) := by
  cases i with
  | encipher a b =>
    exact ⟨fun k => enc Config.delta k a b, fun s ps hs hkv hps hlen =>
      ⟨_, _, (execWith_default _ s).symm.trans (execWith_encipher_accepted hs hkv Config.delta a b),
        coreRun_encipher hkv hps hlen a b, readResult_valid (completed_dv ..)⟩⟩
  | decipher a b =>
    exact ⟨fun k => dec Config.delta k a b, fun s ps hs hkv hps hlen =>
      ⟨_, _, (execWith_default _ s).symm.trans (execWith_decipher_accepted hs hkv Config.delta a b),
        coreRun_decipher hkv hps hlen a b, readResult_valid (completed_dv ..)⟩⟩
  | nop | setkey | encA | encB | decA | decB => cases hi

/-- Settles O42: both results are the command's function of the one key. -/
theorem resultDependsOnKeyAndOperandsOnly : Obligations.ResultDependsOnKeyAndOperandsOnly := by
  intro i s s' ps ps' hi hs hs' hkv hkv' hk hps hps' hlen hlen'
  obtain ⟨f, hf⟩ := exists_result_of_key hi
  obtain ⟨t, u, ht, hu, hr⟩ := hf s ps hs hkv hps hlen
  obtain ⟨t', u', ht', hu', hr'⟩ := hf s' ps' hs' hkv' hps' hlen'
  exact ⟨t, t', u, u', ht, ht', hu, hu', by rw [hr]; rfl, by rw [hr, hr', hk]⟩

section

variable {delta : Word} {p : InPorts} {s s' : State}

/-- On an idle core NOP, SETKEY and no command at all leave every output port as it was. -/
theorem coreStep_outputs_of_no_block_command (hs : s.st = .idle) (hp : p.rst = false)
    (hc : p.cmdValid = true → p.cmd = 0b00#2 ∨ p.cmd = 0b01#2) :
    ∃ t, coreStep p s delta = .next t ∧ t.st = .idle ∧ outputs t = outputs s := by
  cases hv : p.cmdValid
  · exact ⟨s, coreStep_next_iff.2 (.nothing hp hs hv), hs, rfl⟩
  · rcases hc hv with hnop | hset
    · exact ⟨s, coreStep_next_iff.2 (.nop hp hs hv hnop), hs, rfl⟩
    · exact ⟨_, coreStep_next_iff.2 (.setkey hp hs hv hset), (writeKey_st ..).trans hs, rfl⟩

theorem coreRun_outputs_of_no_block_command {ps : List InPorts} (hs : s.st = .idle)
    (hps : NoReset ps) (hcs : NoBlockCommand ps) :
    ∃ t, coreRun ps s delta = .next t ∧ t.st = .idle ∧ outputs t = outputs s := by
  induction ps generalizing s with
  | nil => exact ⟨s, rfl, hs, rfl⟩
  | cons p ps ih =>
    obtain ⟨u, hstep, hu, hout⟩ := coreStep_outputs_of_no_block_command (delta := delta) hs
      (hps p (by simp)) (hcs p (by simp))
    obtain ⟨t, hrun, ht, hout'⟩ := ih hu (fun q hq => hps q (by simp [hq]))
      (fun q hq => hcs q (by simp [hq]))
    exact ⟨t, (coreRun_cons_next hstep).trans hrun, ht, hout'.trans hout⟩

theorem outputs_eq_iff : outputs s = outputs s' ↔ portCmdReady s = portCmdReady s' ∧
    portDv s = portDv s' ∧ portDout0 s = portDout0 s' ∧ portDout1 s = portDout1 s' := by
  simp only [outputs, Prod.mk.injEq]

end

/-- Settles O44: neither run moves a port, so the ports agree at the end as at the start. -/
theorem keyNotReadBack : Obligations.KeyNotReadBack := by
  intro s s' ps hs hs' hdv hv0 hv1 hps hcs
  obtain ⟨t, hrun, -, hout⟩ := coreRun_outputs_of_no_block_command hs hps hcs
  obtain ⟨t', hrun', -, hout'⟩ := coreRun_outputs_of_no_block_command hs' hps hcs
  have hready : portCmdReady s = portCmdReady s' := by rw [portCmdReady, portCmdReady, hs, hs']
  have hstart : outputs s = outputs s' := outputs_eq_iff.2 ⟨hready, hdv, hv0, hv1⟩
  exact ⟨t, t', hrun, hrun', outputs_eq_iff.1 (hout.trans (hstart.trans hout'.symm))⟩

end Sys2Proof.Machine
end

section
/-! The lifetime of a result (rules R57, R95, R179): what a host samples is a function of the output
ports, so it stays as long as they do. -/

namespace Sys2Proof.Machine

theorem readResult_eq_of_outputs_eq {s t : State} (h : outputs t = outputs s) :
    readResult t = readResult s := by
  obtain ⟨-, hdv, hdout0, hdout1⟩ := outputs_eq_iff.1 h
  rw [readResult, hdv, hdout0, hdout1, readResult]

/-- Settles O43: without reset and block command no step moves an output port, and the ports show
`V0`, `V1` and `dv`. -/
theorem resultStaysUntilNextBlockCommand : Obligations.ResultStaysUntilNextBlockCommand := by
  intro s ps hs hps hcs
  obtain ⟨t, hrun, ht, hout⟩ := coreRun_outputs_of_no_block_command hs hps hcs
  obtain ⟨-, hdv, hv0, hv1⟩ := outputs_eq_iff.1 hout
  exact ⟨t, hrun, ht, hv0, hv1, hdv, readResult_eq_of_outputs_eq hout⟩

end Sys2Proof.Machine
end

section
/-! Decode and encode (rules R70 to R74): encoding is a section of decoding, and decoding then encoding
clears exactly what the decoder does not read. -/

namespace Sys2Proof.Machine

theorem decode_encode (i : Instr) : decode (encode i) = i := by
  cases i with
  | nop => exact decodeCmd_nop rfl
  | setkey => exact decodeCmd_setkey rfl
  | encipher => exact decodeCmd_encipher rfl
  | decipher => exact decodeCmd_decipher rfl
  | encA | encB | decA | decB => rfl

/-- A host that presents a command again presents it with the ignored ports at 0 (rule R71). -/
theorem encodeCmd_decodeCmd (p : InPorts) : encodeCmd (decodeCmd p) = p.canonical := by
  rcases cmd_cases p.cmd with hc | hc | hc | hc
  · simp [decodeCmd_nop hc, encodeCmd, InPorts.idle, InPorts.canonical, hc]
  · simp [decodeCmd_setkey hc, encodeCmd, InPorts.idle, InPorts.canonical, hc]
  · simp [decodeCmd_encipher hc, encodeCmd, InPorts.idle, InPorts.canonical, hc]
  · simp [decodeCmd_decipher hc, encodeCmd, InPorts.idle, InPorts.canonical, hc]

theorem encode_of_cmd {i : Instr} (h : i.format = .cmd) :
    encode i = { format := .cmd, ports := encodeCmd i, sel := 0b00#2 } := by
  rw [encode, h]

/-- The four selectors are the codes of the four micro-operations (rule R74). -/
theorem encode_decodeSelector (sel : BitVec 2) :
    encode (decodeSelector sel) = { format := .ustep, ports := InPorts.idle, sel := sel } := by
  rcases cmd_cases sel with rfl | rfl | rfl | rfl <;> rfl

theorem encode_decode (e : Encoded) : encode (decode e) = e.canonical := by
  obtain ⟨format, ports, sel⟩ := e
  cases format with
  | cmd => exact (encode_of_cmd (decodeCmd_format ports)).trans (by rw [encodeCmd_decodeCmd]; rfl)
  | ustep => exact encode_decodeSelector sel

/-- Settles O2: of the two round trips each gives one direction of the equivalence. -/
theorem decodeEncodeAgree : Obligations.DecodeEncodeAgree := by
  refine ⟨decode_encode, encode_decode, fun e e' => ⟨fun h => ?_, fun h => ?_⟩⟩
  · rw [← encode_decode e, h, encode_decode e']
  · rw [← decode_encode (decode e), encode_decode e, h, ← encode_decode e', decode_encode]

end Sys2Proof.Machine
end

section
/-! The decoding tables (rules R72, R74), row by row. -/

namespace Sys2Proof.Machine

/-- Settles O1: the rows of the two tables. -/
theorem assignedCodesDecode : Obligations.AssignedCodesDecode :=
  ⟨fun _ => ⟨decodeCmd_nop, decodeCmd_setkey, decodeCmd_encipher, decodeCmd_decipher⟩,
    decodeUstep_enc_a, decodeUstep_enc_b, decodeUstep_dec_a, decodeUstep_dec_b⟩

end Sys2Proof.Machine
end

section
/-! The key indices (rules R52, R58, R76). -/

namespace Sys2Proof.Machine

theorem toNat_idxA (s : Word) : (idxA s).toNat = s.toNat % 4 := by
  rw [idxA, Config.idxMask, BitVec.toNat_setWidth, toNat_and32_three, Nat.mod_mod]

theorem toNat_idxB (s : Word) : (idxB s).toNat = s.toNat / 2048 % 4 := by
  rw [idxB, Config.idxMask, Config.kselBLo, BitVec.toNat_setWidth, toNat_and32_three, toNat_shr32,
    Nat.mod_mod]
  rfl

theorem idxA_eq_extractLsb' (s : Word) : idxA s = s.extractLsb' 0 2 :=
  BitVec.eq_of_toNat_eq <| by
    rw [toNat_idxA, BitVec.extractLsb'_toNat, Nat.shiftRight_zero]

theorem idxB_eq_extractLsb' (s : Word) : idxB s = s.extractLsb' 11 2 :=
  BitVec.eq_of_toNat_eq <| by
    rw [toNat_idxB, BitVec.extractLsb'_toNat, Nat.shiftRight_eq_div_pow]

/-- The key file in the order of its addresses (rule R58). -/
theorem readKey_eq_getElem (k : KeyFile) (i : BitVec 2) :
    readKey k i = ([k.k0, k.k1, k.k2, k.k3])[i.toNat]'(i.isLt) := by
  rcases cmd_cases i with rfl | rfl | rfl | rfl <;> rfl

/-- Settles O7: each index by its value, and a read by the four addresses. -/
theorem keyIndexFields : Obligations.KeyIndexFields :=
  ⟨fun s => ⟨idxA_eq_extractLsb' s, toNat_idxA s, idxB_eq_extractLsb' s, toNat_idxB s⟩,
    readKey_eq_getElem⟩

end Sys2Proof.Machine
end

section
/-! What a step of the core reads of its ports (rule R71): the request, whether a command is presented,
and what the command decodes to. -/

namespace Sys2Proof.Machine

/-- The ports a command reads decide what it decodes to. -/
theorem decodeCmd_congr {p q : InPorts} (hcmd : p.cmd = q.cmd)
    (hkin : p.cmd = 0b01#2 → p.kin0 = q.kin0 ∧ p.kin1 = q.kin1 ∧ p.kin2 = q.kin2 ∧ p.kin3 = q.kin3)
    (hdin : p.cmd = 0b10#2 ∨ p.cmd = 0b11#2 → p.din0 = q.din0 ∧ p.din1 = q.din1) :
    decodeCmd p = decodeCmd q := by
  rcases cmd_cases p.cmd with hc | hc | hc | hc
  · rw [decodeCmd_nop hc, decodeCmd_nop (hcmd ▸ hc)]
  · obtain ⟨h0, h1, h2, h3⟩ := hkin hc
    rw [decodeCmd_setkey hc, decodeCmd_setkey (hcmd ▸ hc), h0, h1, h2, h3]
  · obtain ⟨h0, h1⟩ := hdin (.inl hc)
    rw [decodeCmd_encipher hc, decodeCmd_encipher (hcmd ▸ hc), h0, h1]
  · obtain ⟨h0, h1⟩ := hdin (.inr hc)
    rw [decodeCmd_decipher hc, decodeCmd_decipher (hcmd ▸ hc), h0, h1]

theorem coreStep_congr {p q : InPorts} (hrst : p.rst = q.rst) (hvalid : p.cmdValid = q.cmdValid)
    (hdecode : decodeCmd p = decodeCmd q) (s : State) (delta : Word := Config.delta) :
    coreStep p s delta = coreStep q s delta := by
  rw [coreStep, coreStep, hrst, hvalid, hdecode]

/-- Settles O25: a step depends on the ports through what the command decodes to, and not even on that
while no command is accepted. -/
theorem ignoredPortsHaveNoEffect : Obligations.IgnoredPortsHaveNoEffect := by
  refine ⟨fun p q s hrst hvalid hcmd hkin hdin =>
    coreStep_congr hrst hvalid (decodeCmd_congr hcmd hkin hdin) s, fun p q s hp hq hnone => ?_,
    fun p s hp hs hv => ?_⟩
  · cases hs : s.st
    · obtain ⟨hpv, hqv⟩ := hnone.resolve_left (by simp [hs])
      rw [coreStep_nothing hp hs hpv, coreStep_nothing hq hs hqv]
    · rw [coreStep_busy hp hs, coreStep_busy hq hs]
  · rw [coreStep_command hp hs hv]
    exact ⟨fun hc => by rw [decodeCmd_nop hc], fun hc => by rw [decodeCmd_setkey hc],
      fun hc => by rw [decodeCmd_encipher hc], fun hc => by rw [decodeCmd_decipher hc]⟩

end Sys2Proof.Machine
end

section
/-! What each line of the host's script drives, and the step of core and host under each (rule R80). -/

namespace Sys2Proof.Machine

section

variable {s : State} {p : InPorts} {rest : List HostAction}

theorem drivenPorts_drive (h : s.script = .drive p :: rest) : drivenPorts s = p := by
  simp [drivenPorts, h]

theorem drivenPorts_command (h : s.script = .command p :: rest) :
    drivenPorts s = { p with rst := false, cmdValid := true } := by
  simp [drivenPorts, h]

theorem drivenPorts_wait (h : s.script = .wait :: rest) : drivenPorts s = InPorts.idle := by
  simp [drivenPorts, h]

theorem drivenPorts_read (h : s.script = .read :: rest) : drivenPorts s = InPorts.idle := by
  simp [drivenPorts, h]

theorem drivenPorts_reset (h : s.script = .reset :: rest) : drivenPorts s = InPorts.reset := by
  simp [drivenPorts, h]

theorem hostReads_read (h : s.script = .read :: rest) : hostReads s = true := by
  simp [hostReads, h]

theorem hostReads_of_ne_read {a : HostAction} (h : s.script = a :: rest) (ha : a ≠ .read) :
    hostReads s = false := by
  cases a with
  | read => exact absurd rfl ha
  | drive | command | wait | reset => simp [hostReads, h]

end

/-- Settles O45: the completed step is the core's step and the host's move, and the host's move is read
off the line. -/
theorem scriptLinesDrivePorts : Obligations.ScriptLinesDrivePorts := by
  intro s t a rest hscript hstep
  rcases step_cases s with ⟨-, -, e⟩ | ⟨hread, u, hcore, e⟩ | ⟨-, r, -, e⟩ <;>
    rw [e] at hstep <;> cases hstep
  have hresults (ha : a ≠ .read) : resultsAfter s = s.results :=
    resultsAfter_of_not_reading (hostReads_of_ne_read hscript ha)
  refine ⟨⟨u, hcore, rfl⟩, ?_, ?_, ?_, ?_, ?_⟩
  · rintro p rfl
    exact ⟨drivenPorts_drive hscript, scriptAfter_drive u hscript, hresults nofun⟩
  · rintro p rfl
    exact ⟨drivenPorts_command hscript, hresults nofun, scriptAfter_command u hscript⟩
  · rintro rfl
    rw [drivenPorts_wait hscript]
    exact ⟨rfl, rfl, hresults nofun, scriptAfter_wait u hscript⟩
  · rintro rfl
    have hreads := hostReads_read hscript
    rw [drivenPorts_read hscript]
    exact ⟨hread hreads, rfl, rfl, scriptAfter_read u hscript,
      resultsAfter_of_reading hreads (hread hreads)⟩
  · rintro rfl
    rw [drivenPorts_reset hscript]
    exact ⟨rfl, scriptAfter_reset u hscript, hresults nofun⟩

section

variable {delta : Word} {s t : State} {rest : List HostAction}

/-- Under any line but READ the step of core and host is the core's step with the script moved on. -/
theorem machineStep_of_ne_read {a : HostAction} (hscript : s.script = a :: rest) (ha : a ≠ .read)
    (h : coreStep (drivenPorts s) s delta = .next t) :
    machineStep s delta = .next { t with script := scriptAfter s t } := by
  have hreads := hostReads_of_ne_read hscript ha
  rw [machineStep_of_coreStep (by simp [hreads]) h, hostAdvance, resultsAfter_of_not_reading hreads,
    ← (coreStep_host_frame h).2]

/-- READ of a valid result on an idle core moves nothing in the core. -/
theorem machineStep_read (hscript : s.script = .read :: rest) (hs : s.st = .idle) (hdv : s.dv = true) :
    machineStep s delta =
      .next { s with script := rest, results := s.results ++ [(s.v0, s.v1)] } := by
  have hcore : coreStep (drivenPorts s) s delta = .next s := by
    rw [drivenPorts_read hscript]; exact coreStep_nothing rfl hs rfl
  rw [machineStep_of_coreStep (fun _ => hdv) hcore, hostAdvance, scriptAfter_read s hscript,
    resultsAfter_of_reading (hostReads_read hscript) hdv]

/-- WAIT goes on while there is no result, and the host has then moved nothing. -/
theorem machineStep_wait_of_invalid (hscript : s.script = .wait :: rest)
    (h : coreStep InPorts.idle s delta = .next t) (hdv : t.dv = false) :
    machineStep s delta = .next t := by
  rw [machineStep_of_ne_read hscript nofun ((drivenPorts_wait hscript).symm ▸ h),
    scriptAfter_wait t hscript, if_neg (by simp [hdv]), ← hscript, ← (coreStep_host_frame h).1]

/-- WAIT is done in the step that makes the result valid. -/
theorem machineStep_wait_of_valid (hscript : s.script = .wait :: rest)
    (h : coreStep InPorts.idle s delta = .next t) (hdv : t.dv = true) :
    machineStep s delta = .next { t with script := rest } := by
  rw [machineStep_of_ne_read hscript nofun ((drivenPorts_wait hscript).symm ▸ h),
    scriptAfter_wait t hscript, if_pos hdv]

theorem decodeCmd_encodeCmd {i : Instr} (hi : i.format = .cmd) : decodeCmd (encodeCmd i) = i := by
  have h := decode_encode i
  rwa [encode_of_cmd hi] at h

/-- A command line on an idle core runs its command and is done. -/
theorem machineStep_commandLine {i : Instr} (hi : i.format = .cmd)
    (hscript : s.script = commandLine i :: rest) (hs : s.st = .idle)
    (h : execWith delta i s = .next t) : machineStep s delta = .next { t with script := rest } := by
  have hcore : coreStep (drivenPorts s) s delta = .next t := by
    rw [drivenPorts_command hscript, coreStepWith_command rfl hs rfl]
    exact (congrArg (execWith delta · s) (decodeCmd_encodeCmd hi)).trans h
  rw [machineStep_of_ne_read hscript nofun hcore, scriptAfter_command t hscript, if_pos hs]

end

end Sys2Proof.Machine
end

section
/-! A word of the opcode table on the command port (rule R82). -/

namespace Sys2Proof.Machine

theorem decodeTableWord_eq {nbits : Nat} (h : 2 ≤ nbits) (w : Nat) :
    decodeTableWord nbits w = some (decodeCmd (portsOfTableWord w)) :=
  if_neg (Nat.not_lt.2 h)

theorem withFetchWord_eq {nbits : Nat} (h : 2 ≤ nbits) (s : State) (w : Nat) :
    s.withFetchWord nbits w = placeCommand (portsOfTableWord w) s :=
  if_neg (Nat.not_lt.2 h)

/-- Only the two low bits of a word reach the port. -/
theorem portsOfTableWord_mod (w : Nat) : portsOfTableWord w = portsOfTableWord (w % 4) := by
  have hcmd : BitVec.ofNat 2 w = BitVec.ofNat 2 (w % 4) := BitVec.eq_of_toNat_eq (by simp)
  rw [portsOfTableWord, portsOfTableWord, hcmd]

theorem decodeCmd_portsOfTableWord (w : Nat) : decodeCmd (portsOfTableWord w) =
    if w % 4 = 0 then .nop else if w % 4 = 1 then .setkey 0 0 0 0
      else if w % 4 = 2 then .encipher 0 0 else .decipher 0 0 := by
  have hlt : w % 4 < 4 := Nat.mod_lt w (by decide)
  rw [portsOfTableWord_mod]
  generalize w % 4 = low at hlt
  revert low
  decide

/-- The step after a command is placed runs it, and the placed line is gone. -/
theorem step_placeCommand {p : InPorts} {s t : State} (hp : p.rst = false) (hv : p.cmdValid = true)
    (h : exec (decodeCmd p) (placeCommand p s) = .next t) :
    step (placeCommand p s) = .next { t with script := s.script } := by
  have hscript := placeCommand_script p s
  have hcore : coreStep (drivenPorts (placeCommand p s)) (placeCommand p s) = .next t := by
    rw [drivenPorts_drive hscript, coreStep_command hp (placeCommand_st p s) hv, h]
  rw [← machineStep_default, machineStep_of_ne_read hscript nofun hcore, scriptAfter_drive t hscript]

/-- Settles O3: the word's two low bits give the command, and the step is that of the placed command. -/
theorem tableWordRuns : Obligations.TableWordRuns := by
  intro nbits w hbits
  rw [decodeTableWord_eq hbits]
  refine ⟨by rw [decodeCmd_portsOfTableWord], ?_⟩
  rintro i s t ⟨⟩ hexec
  rw [withFetchWord_eq hbits] at hexec ⊢
  exact ⟨_, step_placeCommand rfl rfl hexec, rfl⟩

end Sys2Proof.Machine
end

section
/-! The command lines of block operations run on the core (rules R81, R95), in either direction and at
every `DELTA`. -/

namespace Sys2Proof.Machine

section

variable {delta : Word} {s : State}

theorem coreStep_busy_next {p : InPorts} (hp : p.rst = false) (hs : s.st = .busy) :
    ∃ t, coreStep p s delta = .next t := by
  rcases coreStep_busy_cases hp hs delta with ⟨-, -, e⟩ | ⟨-, -, e⟩ | ⟨-, -, e⟩ | ⟨-, -, e⟩ <;>
    exact ⟨_, e⟩

/-- WAIT takes the remaining micro-operations of a block operation, and the host moves in the last of
them only. -/
theorem stepRun_wait {n : Nat} {t : State} {rest : List HostAction} (hinv : StateInv delta s)
    (hs : s.st = .busy) (hscript : s.script = .wait :: rest) (hn : remaining s = n + 1)
    (hrun : coreRun (List.replicate (n + 1) InPorts.idle) s delta = .next t) (hdv : t.dv = true) :
    stepRun (n + 1) s delta = .next { t with script := rest } := by
  induction n generalizing s with
  | zero =>
    obtain ⟨u, hstep⟩ := coreStep_busy_next (delta := delta) (p := InPorts.idle) rfl hs
    cases (coreRun_cons_next hstep).symm.trans hrun
    exact stepRunWith_succ_next (machineStep_wait_of_valid hscript hstep hdv)
  | succ n ih =>
    obtain ⟨u, hstep⟩ := coreStep_busy_next (delta := delta) (p := InPorts.idle) rfl hs
    have hone := busyStep_remaining hinv rfl hs hstep
    have hinv' := busyStep_stateInv rfl hs hinv hstep
    have hu : u.st = .busy := by
      cases hu : u.st
      · have hend := busyStep_remaining_of_ends hinv rfl hs hstep hu
        omega
      · rfl
    obtain ⟨-, hdv', -⟩ := hinv'.busy_flags hu
    rw [stepRunWith_succ_next (machineStep_wait_of_invalid hscript hstep hdv')]
    exact ih hinv' hu ((coreStep_host_frame hstep).1.trans hscript) (by omega)
      ((coreRun_cons_next hstep).symm.trans hrun)

/-- The block command of a direction. -/
def blockInstr (m : Mode) (c : Word × Word) : Instr :=
  match m with
  | .enc => .encipher c.1 c.2
  | .dec => .decipher c.1 c.2

/-- The block function of a direction: `ENC` or `DEC`. -/
def blockCipher (delta : Word) (k : KeyFile) (m : Mode) : Word → Word → Word × Word :=
  match m with
  | .enc => enc delta k
  | .dec => dec delta k

/-- The command lines of a direction's block operation: those of `encipherBlockScript` or of
`decipherBlockScript`. -/
def blockLines (m : Mode) (c : Word × Word) : List HostAction :=
  [commandLine (blockInstr m c), .wait, .read]

theorem blockLines_enc : blockLines .enc = encipherBlockScript := rfl

theorem blockLines_dec : blockLines .dec = decipherBlockScript := rfl

theorem blockInstr_format (m : Mode) (c : Word × Word) : (blockInstr m c).format = .cmd := by
  cases m <;> rfl

theorem execWith_blockInstr_accepted (hs : s.st = .idle) (hkv : s.kv = true) (m : Mode)
    (c : Word × Word) : execWith delta (blockInstr m c) s =
      .next (beginBlock m (loadBlock c.1 c.2 (sumAfter delta m 0) s)) := by
  cases m
  · exact execWith_encipher_accepted hs hkv delta c.1 c.2
  · exact execWith_decipher_accepted hs hkv delta c.1 c.2

theorem coreRun_blockInstr {ps : List InPorts} (hkv : s.kv = true) (hps : NoReset ps)
    (hlen : ps.length = 64) (m : Mode) (c : Word × Word) :
    coreRun ps (beginBlock m (loadBlock c.1 c.2 (sumAfter delta m 0) s)) delta =
      .next (completed (blockCipher delta s.k m c.1 c.2) (sumAfter delta m 32)
        (beginBlock m (loadBlock c.1 c.2 (sumAfter delta m 0) s))) := by
  rw [sumAfter_last]
  cases m
  · exact coreRun_encipher hkv hps hlen c.1 c.2
  · exact coreRun_decipher hkv hps hlen c.1 c.2

theorem noReset_replicate_idle (n : Nat) : NoReset (List.replicate n InPorts.idle) := by
  intro p hp
  rw [List.eq_of_mem_replicate hp]
  rfl

variable {rest : List HostAction}

/-- WAIT over a whole block operation. -/
theorem stepRun_wait_block (hkv : s.kv = true) (hscript : s.script = .wait :: rest) (m : Mode)
    (c : Word × Word) :
    stepRun 64 (beginBlock m (loadBlock c.1 c.2 (sumAfter delta m 0) s)) delta =
      .next { completed (blockCipher delta s.k m c.1 c.2) (sumAfter delta m 32)
        (beginBlock m (loadBlock c.1 c.2 (sumAfter delta m 0) s)) with script := rest } :=
  stepRun_wait (beginBlock_loadBlock_stateInv hkv m c.1 c.2) (beginBlock_st ..) hscript rfl
    (coreRun_blockInstr hkv (noReset_replicate_idle 64) List.length_replicate m c) (completed_dv ..)

/-- The three lines of a block operation: one step to accept it, 64 to wait for it, one to read it. -/
theorem stepRun_blockLines (hs : s.st = .idle) (hkv : s.kv = true) {m : Mode} {c : Word × Word}
    (hscript : s.script = blockLines m c ++ rest) :
    ∃ t, stepRun 66 s delta = .next t ∧
      t.results = s.results ++ [blockCipher delta s.k m c.1 c.2] ∧ t.script = rest ∧
      t.st = .idle ∧ t.dv = true ∧ t.kv = true ∧ t.k = s.k := by
  have haccept := machineStep_commandLine (blockInstr_format m c) hscript hs
    (execWith_blockInstr_accepted (delta := delta) hs hkv m c)
  have hwait := stepRun_wait_block (delta := delta) (s := { s with script := .wait :: .read :: rest })
    hkv rfl m c
  have hread := machineStep_read (delta := delta)
    (s := { completed (blockCipher delta s.k m c.1 c.2) (sumAfter delta m 32)
      (beginBlock m (loadBlock c.1 c.2 (sumAfter delta m 0) s)) with script := .read :: rest }) rfl rfl rfl
  have hrun := calc stepRun 66 s delta
    _ = stepRun 65 _ delta := stepRunWith_succ_next haccept
    _ = stepRun 1 _ delta := stepRun_add_next 1 hwait
    _ = .next _ := stepRunWith_succ_next hread
  exact ⟨_, hrun, rfl, rfl, rfl, rfl, hkv, rfl⟩

/-- The lines of one block operation after another: each starts where the one before it left an idle
core with its key. -/
theorem stepRun_blockLines_map (hs : s.st = .idle) (hkv : s.kv = true) {m : Mode}
    {cs : List (Word × Word)} (hscript : s.script = (cs.map (blockLines m)).flatten ++ rest) :
    ∃ t, stepRun (66 * cs.length) s delta = .next t ∧
      t.results = s.results ++ cs.map (fun c => blockCipher delta s.k m c.1 c.2) ∧
      t.script = rest ∧ t.k = s.k := by
  induction cs generalizing s with
  | nil => exact ⟨s, rfl, by simp, hscript, rfl⟩
  | cons c cs ih =>
    rw [List.map_cons, List.flatten_cons, List.append_assoc] at hscript
    obtain ⟨u, hrun, hres, hscript', hs', -, hkv', hk⟩ :=
      stepRun_blockLines (delta := delta) hs hkv hscript
    obtain ⟨t, hrun', hres', ht, hk'⟩ := ih hs' hkv' hscript'
    refine ⟨t, ?_, ?_, ht, hk'.trans hk⟩
    · rw [List.length_cons, Nat.mul_add_one, Nat.add_comm, stepRun_add_next _ hrun, hrun']
    · rw [hres', hres, hk, List.append_assoc]; rfl

end

/-- Settles O47: the lines of either direction give its block function's value. -/
theorem blockScriptReadsCipher : Obligations.BlockScriptReadsCipher :=
  fun _ _ _ _ hs hkv => ⟨stepRun_blockLines (m := .enc) hs hkv, stepRun_blockLines (m := .dec) hs hkv⟩

end Sys2Proof.Machine
end

section
/-! Buffer and stream calls run on the core (rules R81, R135 to R137): the call's lines give the host the
block function's value of each block, and from these the call leaves what its function gives. -/

namespace Sys2Proof.Machine

/-- A whole chunk is eight bytes (rule R134). -/
theorem length_chunks (bo : ByteOrder) (bytes : List Byte) :
    (chunks bo bytes).1.length = bytes.length / 8 := by
  fun_induction chunks bo bytes with
  | case1 b0 b1 b2 b3 b4 b5 b6 b7 rest r ih => simp only [List.length_cons, r, ih]; omega
  | case2 tail hpartial =>
    have hlt : tail.length < 8 := by
      match tail, hpartial with
      | [], _ | [_], _ | [_, _], _ | [_, _, _], _ | [_, _, _, _], _ | [_, _, _, _, _], _
      | [_, _, _, _, _, _], _ | [_, _, _, _, _, _, _], _ => simp
      | _ :: _ :: _ :: _ :: _ :: _ :: _ :: _ :: _, h => exact (h _ _ _ _ _ _ _ _ _ rfl).elim
    exact (Nat.div_eq_of_lt hlt).symm

/-- A buffer of whole chunks is written over by as many results. -/
theorem writeChunks_of_length_eq {bo : ByteOrder} {output : List Byte} {rs : List (Word × Word)}
    (h : output.length = 8 * rs.length) :
    writeChunks bo output rs = (rs.map (encodeChunk bo)).flatten := by
  rw [writeChunks, List.drop_of_length_le h.le, List.append_nil]

/-- What a buffer call leaves, given the block function's values. -/
theorem bufferOutcome_map {input output : List Byte} (h : lengthsMatch input output = true)
    (f : Word → Word → Word × Word) (bo : ByteOrder) :
    bufferOutcome input output bo ((chunks bo input).1.map fun c => f c.1 c.2) =
      cipherBuffer f input output bo := by
  obtain ⟨hmod, hlen⟩ := (lengthsMatch_iff input output).1 h
  have hwhole : output.length = 8 * ((chunks bo input).1.map fun c => f c.1 c.2).length := by
    rw [List.length_map, length_chunks]; omega
  rw [bufferOutcome, cipherBuffer, if_pos h, if_pos h, writeChunks_of_length_eq hwhole, List.map_map]
  rfl

theorem length_streamBlocks (bo : ByteOrder) (source : List Byte) (n e : Nat) :
    (streamBlocks bo source (some (n, e))).length = min (n + 1) (source.length / 8) := by
  rw [streamBlocks, List.length_take, length_chunks]

/-- What a stream call leaves, given the block function's values: the chunk whose write fails has been
ciphered, and the sink lacks it. -/
theorem streamOutcome_map (f : Word → Word → Word × Word) (bo : ByteOrder) (source : List Byte)
    (srcFails : Option Nat) (sinkFails : Option (Nat × Nat)) :
    streamOutcome bo source srcFails sinkFails
      ((streamBlocks bo source sinkFails).map fun c => f c.1 c.2) =
      cipherStream f bo source srcFails sinkFails := by
  match sinkFails with
  | none => simp only [streamOutcome, streamBlocks, cipherStream, List.map_map]; rfl
  | some (n, e) =>
    have hfails : n < min (n + 1) (chunks bo source).1.length ↔ n < (chunks bo source).1.length := by
      omega
    simp only [streamOutcome, streamBlocks, cipherStream, List.length_map, List.length_take, hfails,
      ← List.map_take, List.take_take, Nat.min_eq_left (Nat.le_succ n), List.map_map]
    split
    · rfl
    · rw [List.take_of_length_le (by omega)]; rfl

section

variable {delta : Word} {s : State} {rest : List HostAction}

/-- A buffer call in either direction and at every `DELTA`. -/
theorem stepRun_bufferScript (hs : s.st = .idle) (hkv : s.kv = true) {m : Mode} {bo : ByteOrder}
    {input output : List Byte}
    (hscript : s.script = bufferScript (blockLines m) bo input output ++ rest) :
    ∃ (t : State) (rs : List (Word × Word)), stepRun (66 * rs.length) s delta = .next t ∧
      rs.length = (if input.length % 8 = 0 ∧ output.length = input.length then input.length / 8 else 0) ∧
      t.results = s.results ++ rs ∧ t.script = rest ∧ t.k = s.k ∧
      bufferOutcome input output bo rs = cipherBuffer (blockCipher delta s.k m) input output bo := by
  by_cases hlen : lengthsMatch input output = true
  · rw [bufferScript, if_pos hlen] at hscript
    obtain ⟨t, hrun, hres, ht, hk⟩ := stepRun_blockLines_map (delta := delta) hs hkv hscript
    refine ⟨t, _, ?_, ?_, hres, ht, hk, bufferOutcome_map hlen _ bo⟩
    · rw [List.length_map, hrun]
    · rw [List.length_map, length_chunks, if_pos ((lengthsMatch_iff input output).1 hlen)]
  · rw [bufferScript, if_neg hlen] at hscript
    refine ⟨s, [], rfl, ?_, (List.append_nil _).symm, hscript, rfl, ?_⟩
    · rw [if_neg (mt (lengthsMatch_iff input output).2 hlen), List.length_nil]
    · rw [bufferOutcome, cipherBuffer, if_neg hlen, if_neg hlen]

/-- A stream call in either direction and at every `DELTA`. -/
theorem stepRun_streamScript (hs : s.st = .idle) (hkv : s.kv = true) {m : Mode} {bo : ByteOrder}
    {source : List Byte} {sinkFails : Option (Nat × Nat)} (srcFails : Option Nat)
    (hscript : s.script =
      ((streamBlocks bo source sinkFails).map (blockLines m)).flatten ++ rest) :
    ∃ (t : State) (rs : List (Word × Word)), stepRun (66 * rs.length) s delta = .next t ∧
      (sinkFails = none → rs.length = source.length / 8) ∧
      (∀ n e, sinkFails = some (n, e) → rs.length = min (n + 1) (source.length / 8)) ∧
      t.results = s.results ++ rs ∧ t.script = rest ∧ t.k = s.k ∧
      streamOutcome bo source srcFails sinkFails rs =
        cipherStream (blockCipher delta s.k m) bo source srcFails sinkFails := by
  obtain ⟨t, hrun, hres, ht, hk⟩ := stepRun_blockLines_map (delta := delta) hs hkv hscript
  refine ⟨t, _, ?_, ?_, ?_, hres, ht, hk, streamOutcome_map _ bo source srcFails sinkFails⟩
  · rw [List.length_map, hrun]
  · rintro rfl
    exact List.length_map _ |>.trans (length_chunks bo source)
  · rintro n e rfl
    exact List.length_map _ |>.trans (length_streamBlocks bo source n e)

end

/-- Settles O55: the lines of either direction, with its block function for the results. -/
theorem bufferScriptMatchesFunction : Obligations.BufferScriptMatchesFunction :=
  fun _ _ _ _ _ hs hkv => ⟨stepRun_bufferScript (m := .enc) hs hkv, stepRun_bufferScript (m := .dec) hs hkv⟩

/-- Settles O56: the lines of either direction, with its block function for the results. -/
theorem streamScriptMatchesFunction : Obligations.StreamScriptMatchesFunction :=
  fun _ _ _ srcFails _ _ hs hkv =>
    ⟨stepRun_streamScript (m := .enc) hs hkv srcFails, stepRun_streamScript (m := .dec) hs hkv srcFails⟩

end Sys2Proof.Machine
end

section
/-! The block functions of the two directions are inverse to one another at every `DELTA` and key (rule
R98): the loop bodies are, and each direction's accumulator ends where the other's starts. -/

namespace Sys2Proof.Machine

/-- The other direction. -/
def otherMode : Mode → Mode
  | .enc => .dec
  | .dec => .enc

/-- Each statement of a loop body is undone by the statement the other body has in the mirrored place. -/
theorem roundBody_leftInverse (delta : Word) (k : KeyFile) (m : Mode) :
    Function.LeftInverse (roundBody delta k (otherMode m)) (roundBody delta k m) := by
  rintro ⟨v0, v1, sum⟩
  cases m with
  | enc => simp only [otherMode, roundBody, encBody, decBody, add32, sub32, BitVec.add_sub_cancel]
  | dec => simp only [otherMode, roundBody, encBody, decBody, add32, sub32, BitVec.sub_add_cancel]

theorem sumAfter_otherMode_zero (delta : Word) (m : Mode) :
    sumAfter delta (otherMode m) 0 = sumAfter delta m 32 := by
  cases m <;> rfl

theorem roundBody_sum {n : Nat} (hn : n < 32) {delta : Word} {m : Mode} {w : LoopVars}
    (hw : w.sum = sumAfter delta m n) (k : KeyFile) :
    (roundBody delta k m w).sum = sumAfter delta m (n + 1) := by
  cases m with
  | enc => rw [sumAfter_enc_succ, ← hw]; rfl
  | dec => rw [sumAfter_dec_succ delta hn, ← hw]; rfl

/-- The accumulator in the loops runs along the trajectory of rule R120. -/
theorem iterate_roundBody_sum {n : Nat} (hn : n ≤ 32) {delta : Word} {m : Mode} {w : LoopVars}
    (hw : w.sum = sumAfter delta m 0) (k : KeyFile) :
    ((roundBody delta k m)^[n] w).sum = sumAfter delta m n := by
  induction n with
  | zero => exact hw
  | succ n ih =>
    rw [Function.iterate_succ_apply']
    exact roundBody_sum hn (ih (Nat.le_of_succ_le hn)) k

/-- The loop variables with which a direction's block function starts on a block. -/
def blockStart (delta : Word) (m : Mode) (c : Word × Word) : LoopVars :=
  { v0 := c.1, v1 := c.2, sum := sumAfter delta m 0 }

/-- A direction can start on the block of any loop variables whose accumulator is at its start. -/
theorem blockStart_block {delta : Word} {m : Mode} {w : LoopVars} (hw : w.sum = sumAfter delta m 0) :
    blockStart delta m w.block = w := by
  rw [blockStart, ← hw]; rfl

/-- The block function of a direction on pairs. -/
def blockMap (delta : Word) (k : KeyFile) (m : Mode) (c : Word × Word) : Word × Word :=
  blockCipher delta k m c.1 c.2

theorem blockMap_eq_iterate (delta : Word) (k : KeyFile) (m : Mode) (c : Word × Word) :
    blockMap delta k m c = ((roundBody delta k m)^[32] (blockStart delta m c)).block := by
  cases m with
  | enc => rw [← encLoop_eq_iterate, blockStart, sumAfter_enc_zero]; rfl
  | dec => rw [← decLoop_eq_iterate]; rfl

theorem blockMap_leftInverse (delta : Word) (k : KeyFile) (m : Mode) :
    Function.LeftInverse (blockMap delta k (otherMode m)) (blockMap delta k m) := by
  intro c
  have hsum : ((roundBody delta k m)^[32] (blockStart delta m c)).sum =
      sumAfter delta (otherMode m) 0 := by
    rw [sumAfter_otherMode_zero]
    exact iterate_roundBody_sum (le_refl 32) rfl k
  rw [blockMap_eq_iterate delta k m, blockMap_eq_iterate, blockStart_block hsum,
    (roundBody_leftInverse delta k m).iterate 32]
  rfl

theorem blockMap_bijective (delta : Word) (k : KeyFile) (m : Mode) :
    Function.Bijective (blockMap delta k m) := by
  refine Function.bijective_iff_has_inverse.2
    ⟨blockMap delta k (otherMode m), blockMap_leftInverse delta k m, ?_⟩
  cases m
  · exact blockMap_leftInverse delta k .dec
  · exact blockMap_leftInverse delta k .enc

/-- Settles O38: each direction's block function is a left inverse of the other's. -/
theorem decipherInvertsEncipher : Obligations.DecipherInvertsEncipher :=
  fun delta k =>
    ⟨fun a b => blockMap_leftInverse delta k .enc (a, b),
      fun a b => blockMap_leftInverse delta k .dec (a, b),
      blockMap_bijective delta k .enc, blockMap_bijective delta k .dec⟩

end Sys2Proof.Machine
end

section
/-! The acceptance of the four commands at the machine's `DELTA` (rules R90 to R94), and what a block
command's 64 steps make of the state it was accepted into (rule R119). -/

namespace Sys2Proof.Machine

section

variable {s : State}

theorem exec_nop (hs : s.st = .idle) : exec .nop s = .next s :=
  (execWith_default _ s).symm.trans (execWith_nop hs)

theorem exec_setkey (hs : s.st = .idle) (k0 k1 k2 k3 : Word) :
    exec (.setkey k0 k1 k2 k3) s = .next (writeKey k0 k1 k2 k3 s) :=
  (execWith_default _ s).symm.trans (execWith_setkey hs k0 k1 k2 k3)

theorem exec_blockInstr (hs : s.st = .idle) (hkv : s.kv = true) (m : Mode) (c : Word × Word) :
    exec (blockInstr m c) s =
      .next (beginBlock m (loadBlock c.1 c.2 (sumAfter Config.delta m 0) s)) :=
  (execWith_default _ s).symm.trans (execWith_blockInstr_accepted hs hkv m c)

theorem controlPart_beginBlock (m : Mode) (s : State) :
    controlPart (beginBlock m s) = ⟨.busy, m, 0#6, .a, s.kv, false⟩ := rfl

/-- A block operation in either direction, from acceptance to completion. -/
theorem exists_blockOperation (hs : s.st = .idle) (hkv : s.kv = true) {ps : List InPorts}
    (hps : NoReset ps) (hlen : ps.length = 64) (m : Mode) (c : Word × Word) :
    ∃ t, exec (blockInstr m c) s = .next t ∧ t.k = s.k ∧ t.v0 = c.1 ∧ t.v1 = c.2 ∧
      t.sum = sumAfter Config.delta m 0 ∧ controlPart t = ⟨.busy, m, 0#6, .a, true, false⟩ ∧
      coreRun ps t = .next (completed (blockCipher Config.delta s.k m c.1 c.2)
        (sumAfter Config.delta m 32) t) := by
  refine ⟨_, exec_blockInstr hs hkv m c, rfl, rfl, rfl, rfl, ?_, coreRun_blockInstr hkv hps hlen m c⟩
  rw [controlPart_beginBlock, loadBlock_kv, hkv]

end

/-- Settles O40: the block operation of each direction. -/
theorem blockOperationsComputeCipher : Obligations.BlockOperationsComputeCipher := by
  intro a b s ps hs hkv hps hlen
  have henc := exists_blockOperation hs hkv hps hlen .enc (a, b)
  have hdec := exists_blockOperation hs hkv hps hlen .dec (a, b)
  rw [sumAfter_enc_zero] at henc
  rw [sumAfter_last] at hdec
  exact ⟨henc, hdec⟩

/-- Settles O16: an accepted NOP leaves the state, and so does an idle core with no command; in every
other case `cmd_valid` is not looked at. -/
theorem nopWritesNothing : Obligations.NopWritesNothing := by
  refine ⟨fun s hs => exec_nop hs, fun p s hc => ?_⟩
  cases hp : p.rst
  · cases hs : s.st
    · exact Eq.trans (coreStep_next_iff.2 (.nop rfl hs rfl hc)) (Eq.symm (coreStep_nothing rfl hs rfl))
    · rw [coreStep_busy rfl hs, coreStep_busy rfl hs]
  · rw [coreStep_reset rfl, coreStep_reset rfl]

/-- Settles O17: the key store, by `exec` and by the ports. -/
theorem setkeyResult : Obligations.SetkeyResult :=
  fun k0 k1 k2 k3 _ hs => ⟨exec_setkey hs k0 k1 k2 k3,
    fun _ hp hv hc => coreStep_next_iff.2 (.setkey hp hs hv hc)⟩

/-- Settles O18: the encipher direction, whose accumulator starts at 0. -/
theorem encipherAccepted : Obligations.EncipherAccepted := by
  intro a b s hs hkv
  have h := exec_blockInstr hs hkv .enc (a, b)
  rwa [sumAfter_enc_zero] at h

/-- Settles O19: the decipher direction, whose accumulator starts at `DELTA` times 32. -/
theorem decipherAccepted : Obligations.DecipherAccepted :=
  fun a b _ hs hkv => exec_blockInstr hs hkv .dec (a, b)

theorem exec_of_busy {i : Instr} (hi : i.format = .cmd) {s : State} (hs : s.st = .busy) :
    exec i s = .next s := by
  cases i with
  | nop | encipher | decipher => exact accept_busy hs _
  | setkey k0 k1 k2 k3 => exact accept_busy hs fun t => .next (writeKey k0 k1 k2 k3 t)
  | encA | encB | decA | decB => cases hi

/-- Settles O20: the acceptance guard of each command. -/
theorem busyTurnsCommandsAway : Obligations.BusyTurnsCommandsAway :=
  fun _ _ hi hs => exec_of_busy hi hs

end Sys2Proof.Machine
end

section
/-! The step of core and host around the instruction that runs (rules R80, R90, R117, R154), and a command
line that waits for a busy core (rule R177). -/

namespace Sys2Proof.Machine

section

variable {s t : State}

theorem step_of_coreStep_fault {r : Fault} (hr : hostReads s = true → s.dv = true)
    (h : coreStep (drivenPorts s) s = .fault r) : step s = .fault r := by
  rcases step_cases s with ⟨hreads, hdv, -⟩ | ⟨-, u, hu, -⟩ | ⟨-, r', hr', e⟩
  · simp [hr hreads] at hdv
  · rw [hu] at h; cases h
  · rw [hr'] at h; cases h; exact e

theorem resultsAfter_eq (hr : hostReads s = true → s.dv = true) :
    resultsAfter s = if hostReads s then s.results ++ [(s.v0, s.v1)] else s.results := by
  cases hreads : hostReads s
  · exact resultsAfter_of_not_reading hreads
  · exact resultsAfter_of_reading hreads (hr hreads)

/-- The dispatch of rule R154 short of a reset: the instruction that a core's step runs. -/
theorem coreStep_eq_exec {p : InPorts} {i : Instr} (hp : p.rst = false)
    (hi : s.st = .busy ∧ i = decodeUstep s.mode s.phase ∨
      s.st = .idle ∧ p.cmdValid = true ∧ i = decodeCmd p) : coreStep p s = exec i s := by
  rcases hi with ⟨hs, rfl⟩ | ⟨hs, hv, rfl⟩
  · exact coreStep_busy hp hs
  · exact coreStep_command hp hs hv

end

/-- Settles O4: the core's step is `exec`, and its outcome is that of the whole step but for the host's
data. -/
theorem stepRunsDecodedInstruction : Obligations.StepRunsDecodedInstruction := by
  intro s i hr hp hi
  have hcore := coreStep_eq_exec hp hi
  refine ⟨fun t h => ?_, fun r h => step_of_coreStep_fault hr (hcore.trans h),
    fun r h => absurd h (exec_not_refused i s r)⟩
  rw [step_of_coreStep hr (hcore.trans h), hostAdvance, resultsAfter_eq hr]

section

variable {delta : Word} {p : InPorts} {s t : State} {rest : List HostAction}

/-- While the core is busy a command line stays where it is: the step is the core's alone. -/
theorem machineStep_command_of_busy (hscript : s.script = .command p :: rest) (hs : s.st = .busy)
    (h : coreStep (drivenPorts s) s delta = .next t) : machineStep s delta = .next t := by
  rw [machineStep_of_ne_read hscript nofun h, scriptAfter_command t hscript, if_neg (by simp [hs]),
    ← hscript, ← (coreStep_host_frame h).1]

/-- On an idle core a command line runs its command and is done. -/
theorem machineStep_command_of_idle (hscript : s.script = .command p :: rest) (hs : s.st = .idle)
    (h : execWith delta (decodeCmd p) s = .next t) :
    machineStep s delta = .next { t with script := rest } := by
  have hcore : coreStep (drivenPorts s) s delta = .next t := by
    rw [drivenPorts_command hscript, coreStepWith_command rfl hs rfl]
    exact h
  rw [machineStep_of_ne_read hscript nofun hcore, scriptAfter_command t hscript, if_pos hs]

theorem endPhaseB_dv_of_ends (hs : s.st = .busy) (h : (endPhaseB s).st = .idle) :
    (endPhaseB s).dv = true := by
  cases hc : completes s.rnd
  · simp [hc, hs] at h
  · simp [hc]

/-- The step that ends a block operation makes its result valid (rule R118). -/
theorem busyStep_dv_of_ends (hp : p.rst = false) (hs : s.st = .busy)
    (h : coreStep p s delta = .next t) (ht : t.st = .idle) : t.dv = true := by
  rcases coreStep_busy_cases hp hs delta with ⟨-, -, e⟩ | ⟨-, -, e⟩ | ⟨-, -, e⟩ | ⟨-, -, e⟩ <;>
    rw [e] at h <;> cases h
  · simp [hs] at ht
  · exact endPhaseB_dv_of_ends hs ht
  · simp [hs] at ht
  · exact endPhaseB_dv_of_ends hs ht

theorem remaining_ne_zero_of_busy (hinv : StateInv delta s) (hs : s.st = .busy) : remaining s ≠ 0 := by
  obtain ⟨-, -, hrnd⟩ := hinv.busy_flags hs
  have hphase : phaseNat s.phase ≤ 1 := by cases s.phase <;> decide
  rw [remaining]
  omega

/-- A command line held through the remaining micro-operations of a block operation is still there when
the operation completes, and the key is the same. -/
theorem stepRun_held_command (hinv : StateInv delta s) (hs : s.st = .busy)
    (hscript : s.script = .command p :: rest) :
    ∃ t, stepRun (remaining s) s delta = .next t ∧ t.st = .idle ∧ t.dv = true ∧ t.k = s.k ∧
      t.script = .command p :: rest := by
  induction hn : remaining s generalizing s with
  | zero => exact absurd hn (remaining_ne_zero_of_busy hinv hs)
  | succ n ih =>
    have hp : (drivenPorts s).rst = false := by rw [drivenPorts_command hscript]
    obtain ⟨u, hcore⟩ := coreStep_busy_next (delta := delta) hp hs
    have hstep := machineStep_command_of_busy hscript hs hcore
    have hk : u.k = s.k := busyStep_k hp hs hcore
    have hscript' : u.script = .command p :: rest := (coreStep_host_frame hcore).1.trans hscript
    have hone := busyStep_remaining hinv hp hs hcore
    have hn' : remaining u = n := by omega
    rw [stepRunWith_succ_next hstep]
    cases hu : u.st
    · rw [busyStep_remaining_of_ends hinv hp hs hcore hu] at hn'
      subst hn'
      exact ⟨u, rfl, hu, busyStep_dv_of_ends hp hs hcore hu, hk, hscript'⟩
    · obtain ⟨t, hrun, ht, hdv, hk', hscript''⟩ :=
        ih (busyStep_stateInv hp hs hinv hcore) hu hscript' hn'
      exact ⟨t, hrun, ht, hdv, hk'.trans hk, hscript''⟩

end

/-- Settles O46: the line outlives the operation, and the completed core is idle and accepts it. -/
theorem heldCommandTakesEffectOnce : Obligations.HeldCommandTakesEffectOnce := by
  intro s p rest hinv hs hscript
  obtain ⟨t, hrun, ht, hdv, hk, hscript'⟩ := stepRun_held_command hinv hs hscript
  exact ⟨t, hrun, ht, hdv, hk, hscript', fun u hu =>
    machineStep_command_of_idle hscript' ht ((execWith_default _ t).trans hu)⟩

end Sys2Proof.Machine
end

section
/-! The key terms (rule R112) and the mixing function (rule R110), as values and as the expressions the
micro-operations are written with. -/

namespace Sys2Proof.Machine

theorem readKey_eq_getD (k : KeyFile) (i : BitVec 2) :
    readKey k i = ([k.k0, k.k1, k.k2, k.k3][i.toNat]?).getD 0 := by
  rw [readKey_eq_getElem, List.getElem?_eq_getElem, Option.getD_some]

/-- Settles O8: the sum of the accumulator and of the word at the index's value. -/
theorem keyTermValue : Obligations.KeyTermValue := by
  intro k s
  constructor
  · rw [keyTermA, toNat_add32, readKey_eq_getD, toNat_idxA]
  · rw [keyTermB, toNat_add32, readKey_eq_getD, toNat_idxB]

theorem keyTermA_eq (k : KeyFile) (s : Word) :
    keyTermA k s = s + readKey k (BitVec.ofNat 2 (s.toNat % 4)) := by
  rw [← toNat_idxA, BitVec.ofNat_toNat, BitVec.setWidth_eq]; rfl

theorem keyTermB_eq (k : KeyFile) (s : Word) :
    keyTermB k s = s + readKey k (BitVec.ofNat 2 (s.toNat / 2048 % 4)) := by
  rw [← toNat_idxB, BitVec.ofNat_toNat, BitVec.setWidth_eq]; rfl

theorem mixF_eq (x : Word) : mixF x = ((x <<< 4) ^^^ (x >>> 5)) + x := rfl

theorem toNat_mixF (x : Word) :
    (mixF x).toNat = ((x.toNat * 16 % 2 ^ 32 ^^^ x.toNat / 32) + x.toNat) % 2 ^ 32 := by
  rw [mixF, toNat_add32, toNat_xor32, toNat_shl32, toNat_shr32]; rfl

/-- Two words with one value of F. -/
theorem mixF_collision : mixF 0x5208#32 = mixF 0x5237#32 := by decide

/-- Settles O6: the value operator by operator; F is not injective. -/
theorem mixingFunctionValue : Obligations.MixingFunctionValue :=
  ⟨toNat_mixF, fun hbij => absurd (hbij.injective mixF_collision) (by decide)⟩

end Sys2Proof.Machine
end

section
/-! The accumulator's steps and its end value (rules R111, R125). -/

namespace Sys2Proof.Machine

theorem iterate_add32_eq_mul32 (delta : Word) (n : Nat) :
    (fun x => add32 x delta)^[n] 0#32 = mul32 delta (BitVec.ofNat 32 n) := by
  induction n with
  | zero => exact BitVec.mul_zero.symm
  | succ n ih => rw [Function.iterate_succ_apply', ih, mul32_ofNat_succ]

theorem sum0Dec_eq_shl32 (delta : Word) : sum0Dec delta = shl32 delta 5 :=
  BitVec.eq_of_toNat_eq <| by rw [sum0Dec, toNat_mul32, toNat_shl32]; rfl

/-- Settles O9: by induction on the number of additions; the decipher start is the 32nd sum. -/
theorem accumulatorEndState : Obligations.AccumulatorEndState :=
  fun delta => ⟨iterate_add32_eq_mul32 delta, (iterate_add32_eq_mul32 delta 32).symm,
    sum0Dec_eq_shl32 delta⟩

end Sys2Proof.Machine
end

section
/-! The micro-operations (rules R113 to R117): what each leaves, their dispatch, and that the half-rounds
of the two directions undo each other (rule R122). -/

namespace Sys2Proof.Machine

/-- The end of a round with the completion test as a number (rule R118). -/
theorem endPhaseB_eq (s : State) : endPhaseB s = { s with
    phase := .a
    rnd := s.rnd + 1
    st := if s.rnd.toNat + 1 = 32 then .idle else s.st
    dv := if s.rnd.toNat + 1 = 32 then true else s.dv } := by
  simp only [endPhaseB, completes_iff_toNat]; rfl

/-- Settles O10: the key term read at its index. -/
theorem encAResult : Obligations.EncAResult := by
  refine ⟨decodeUstep_enc_a, fun s => ?_⟩
  rw [← keyTermA_eq, ← mixF_eq]; rfl

/-- Settles O11: the key term read at its index, and the end of a round. -/
theorem encBResult : Obligations.EncBResult := by
  refine ⟨decodeUstep_enc_b, fun s => ?_⟩
  rw [← keyTermB_eq, ← mixF_eq]
  exact congrArg Host.Outcome.next (endPhaseB_eq _)

/-- Settles O12: the key term read at its index. -/
theorem decAResult : Obligations.DecAResult := by
  refine ⟨decodeUstep_dec_a, fun s => ?_⟩
  rw [← keyTermB_eq, ← mixF_eq]; rfl

/-- Settles O13: the key term read at its index, and the end of a round. -/
theorem decBResult : Obligations.DecBResult := by
  refine ⟨decodeUstep_dec_b, fun s => ?_⟩
  rw [← keyTermA_eq, ← mixF_eq]
  exact congrArg Host.Outcome.next (endPhaseB_eq _)

theorem sub32_add32 (a b : Word) : sub32 (add32 a b) b = a := BitVec.add_sub_cancel a b

theorem add32_sub32 (a b : Word) : add32 (sub32 a b) b = a := BitVec.sub_add_cancel a b

/-- Settles O15: the two half-rounds move a half of the block up and down by one value, a function of
what neither writes. -/
theorem halfRoundsInvert : Obligations.HalfRoundsInvert :=
  fun _ _ => ⟨sub32_add32 .., rfl, sub32_add32 .., rfl, add32_sub32 .., add32_sub32 ..⟩

/-- Settles O24: the selector's row for each direction and phase; the other ports are not looked at. -/
theorem busyDispatch : Obligations.BusyDispatch := by
  intro p s hp hs
  rw [coreStep_busy hp hs]
  exact ⟨fun hm hph => by rw [hm, hph, decodeUstep_enc_a],
    fun hm hph => by rw [hm, hph, decodeUstep_enc_b],
    fun hm hph => by rw [hm, hph, decodeUstep_dec_a],
    fun hm hph => by rw [hm, hph, decodeUstep_dec_b],
    fun q hq => coreStep_busy hq hs⟩

end Sys2Proof.Machine
end

section
/-! Control (rules R118, R123): what a step makes of the control part is a function of the ports and of
the control part, and a block operation ends at round 32. -/

namespace Sys2Proof.Machine

section

variable {delta : Word} {p : InPorts} {s s' t : State}

/-- The control part after a micro-operation: the same in both directions (rules R113 to R116). -/
theorem busyStep_controlPart (hp : p.rst = false) (hs : s.st = .busy)
    (h : coreStep p s delta = .next t) :
    s.phase = .a ∧ controlPart t = controlPart (endPhaseA s) ∨
    s.phase = .b ∧ controlPart t = controlPart (endPhaseB s) := by
  rcases coreStep_busy_cases hp hs delta with ⟨-, hph, e⟩ | ⟨-, hph, e⟩ | ⟨-, hph, e⟩ | ⟨-, hph, e⟩ <;>
    rw [e] at h <;> cases h
  · exact .inl ⟨hph, rfl⟩
  · exact .inr ⟨hph, rfl⟩
  · exact .inl ⟨hph, rfl⟩
  · exact .inr ⟨hph, rfl⟩

theorem controlPart_eq_iff : controlPart s = controlPart s' ↔ s.st = s'.st ∧ s.mode = s'.mode ∧
    s.rnd = s'.rnd ∧ s.phase = s'.phase ∧ s.kv = s'.kv ∧ s.dv = s'.dv := by
  simp only [controlPart, Control.mk.injEq]

/-- A move of one state is open to every state with its control part, and leads to the same control
part. -/
theorem CoreMove.exists_of_controlPart_eq (h : CoreMove delta p s t)
    (hcontrol : controlPart s = controlPart s') :
    ∃ t', CoreMove delta p s' t' ∧ controlPart t' = controlPart t := by
  obtain ⟨hst, hmode, hrnd, hphase, hkv, hdv⟩ := controlPart_eq_iff.1 hcontrol
  cases h with
  | reset hp => exact ⟨_, .reset hp, rfl⟩
  | encA hp hs hm hph =>
    exact ⟨_, .encA hp (hst ▸ hs) (hmode ▸ hm) (hphase ▸ hph), by simp [controlPart_eq_iff, *]⟩
  | encB hp hs hm hph =>
    exact ⟨_, .encB hp (hst ▸ hs) (hmode ▸ hm) (hphase ▸ hph), by simp [controlPart_eq_iff, *]⟩
  | decA hp hs hm hph =>
    exact ⟨_, .decA hp (hst ▸ hs) (hmode ▸ hm) (hphase ▸ hph), by simp [controlPart_eq_iff, *]⟩
  | decB hp hs hm hph =>
    exact ⟨_, .decB hp (hst ▸ hs) (hmode ▸ hm) (hphase ▸ hph), by simp [controlPart_eq_iff, *]⟩
  | nothing hp hs hv => exact ⟨s', .nothing hp (hst ▸ hs) hv, hcontrol.symm⟩
  | nop hp hs hv hc => exact ⟨s', .nop hp (hst ▸ hs) hv hc, hcontrol.symm⟩
  | setkey hp hs hv hc =>
    exact ⟨_, .setkey hp (hst ▸ hs) hv hc, by simp [controlPart_eq_iff, *]⟩
  | encipher hp hs hv hc hk =>
    exact ⟨_, .encipher hp (hst ▸ hs) hv hc (hkv ▸ hk), by simp [controlPart_eq_iff, *]⟩
  | decipher hp hs hv hc hk =>
    exact ⟨_, .decipher hp (hst ▸ hs) hv hc (hkv ▸ hk), by simp [controlPart_eq_iff, *]⟩

theorem execWith_fault {i : Instr} {r : Fault} (h : execWith delta i s = .fault r) :
    r = .protocolViolation .noKey := by
  rcases execWith_cases delta i s with ⟨_, _, e⟩ | ⟨_, e⟩ | ⟨_, _, _, _, _, _, e⟩ | ⟨_, _, _, _, _, e⟩ |
    ⟨_, _, _, _, _, e⟩ | ⟨_, _, _, e⟩ | ⟨_, e⟩ | ⟨_, e⟩ | ⟨_, e⟩ | ⟨_, e⟩ <;>
    rw [e] at h <;> cases h
  rfl

/-- The one way a step of the core stops (rules R150, R156). -/
theorem coreStep_fault {r : Fault} (h : coreStep p s delta = .fault r) :
    r = .protocolViolation .noKey := by
  cases hp : p.rst
  · cases hs : s.st
    · cases hv : p.cmdValid
      · rw [coreStep_nothing hp hs hv] at h; cases h
      · exact execWith_fault ((coreStepWith_command hp hs hv).symm.trans h)
    · exact execWith_fault ((coreStepWith_busy hp hs).symm.trans h)
  · rw [coreStep_reset hp s delta] at h; cases h

theorem coreStep_next_of_controlPart_eq (hcontrol : controlPart s = controlPart s')
    (h : coreStep p s delta = .next t) :
    ∃ t', coreStep p s' delta = .next t' ∧ controlPart t' = controlPart t := by
  obtain ⟨t', hmove, ht'⟩ := (coreStep_next_iff.1 h).exists_of_controlPart_eq hcontrol
  exact ⟨t', coreStep_next_iff.2 hmove, ht'⟩

theorem coreStep_fault_of_controlPart_eq {r : Fault} (hcontrol : controlPart s = controlPart s')
    (h : coreStep p s delta = .fault r) : coreStep p s' delta = .fault r := by
  cases h' : coreStep p s' delta with
  | next t' =>
    obtain ⟨t, ht, -⟩ := coreStep_next_of_controlPart_eq hcontrol.symm h'
    cases h.symm.trans ht
  | fault r' => rw [coreStep_fault h, coreStep_fault h']
  | refused r' => exact absurd h' (coreStep_not_refused p s' r' delta)

/-- The end of a round makes a busy core idle exactly where it brings `RND` to 32. -/
theorem endPhaseB_idle_iff (hs : s.st = .busy) :
    (endPhaseB s).st = .idle ↔ (endPhaseB s).rnd = 32#6 := by
  have hc : completes s.rnd = true ↔ s.rnd + 1#6 = 32#6 := beq_iff_eq
  rw [endPhaseB_st, endPhaseB_rnd, ← hc]
  cases completes s.rnd <;> simp [hs]

theorem endPhaseB_dv_of_busy (h : (endPhaseB s).st = .busy) : (endPhaseB s).dv = s.dv := by
  cases hc : completes s.rnd
  · simp [hc]
  · simp [hc] at h

end

/-- Settles O31: the moves of two states with one control part are the same, so where one stops the
other cannot go on. -/
theorem controlIndependentOfData : Obligations.ControlIndependentOfData :=
  fun _ _ _ hcontrol => ⟨fun _ => coreStep_next_of_controlPart_eq hcontrol,
    fun _ => coreStep_fault_of_controlPart_eq hcontrol⟩

/-- Settles O14: an A micro-operation leaves the core busy, a B micro-operation ends a round. -/
theorem blockEndsAtRound32 : Obligations.BlockEndsAtRound32 := by
  intro p s t hp hs hstep
  have hready (ht : t.st = .idle) : portCmdReady t = true := by rw [portCmdReady, ht]; rfl
  have hvalid (ht : t.st = .idle) : portDv t = true := busyStep_dv_of_ends hp hs hstep ht
  rcases busyStep_controlPart hp hs hstep with ⟨hph, hcontrol⟩ | ⟨hph, hcontrol⟩ <;>
    obtain ⟨hst, -, hrnd, hphase, -, hdv⟩ := controlPart_eq_iff.1 hcontrol
  · have hbusy : t.st = .busy := hst.trans hs
    exact ⟨by simp [hbusy, hph], fun ht => by simp [hbusy] at ht, fun _ => hdv⟩
  · refine ⟨?_, fun ht => ⟨hready ht, hvalid ht, hphase⟩, fun ht => ?_⟩
    · rw [hst, hrnd, endPhaseB_idle_iff hs]
      exact (and_iff_right hph).symm
    · rw [hdv, endPhaseB_dv_of_busy (hst ▸ ht)]

end Sys2Proof.Machine
end

section
/-! The trajectory of a block operation (rule R120): a run within its remaining micro-operations takes
one of them a step, and the invariant ties the accumulator to how many are done. -/

namespace Sys2Proof.Machine

section

variable {delta : Word} {p : InPorts} {s t : State}

theorem busyStep_mode (hp : p.rst = false) (hs : s.st = .busy) (h : coreStep p s delta = .next t) :
    t.mode = s.mode := by
  rw [(coreStep_next_iff.1 h).mode_eq]
  simp [hp, hs]

/-- A run of steps within what remains of a block operation. -/
theorem exists_coreRun_of_busy {ps : List InPorts} (hinv : StateInv delta s) (hs : s.st = .busy)
    (hps : NoReset ps) (hlen : ps.length ≤ remaining s) :
    ∃ u, coreRun ps s delta = .next u ∧ u.mode = s.mode ∧ remaining u + ps.length = remaining s ∧
      (u.st = .idle → u.dv = true) := by
  induction ps generalizing s with
  | nil => exact ⟨s, rfl, rfl, rfl, fun hi => by simp [hs] at hi⟩
  | cons p ps ih =>
    have hp : p.rst = false := hps p (by simp)
    obtain ⟨v, hstep⟩ := coreStep_busy_next (delta := delta) hp hs
    have hmode := busyStep_mode hp hs hstep
    have hone := busyStep_remaining hinv hp hs hstep
    rw [List.length_cons] at hlen ⊢
    rw [coreRun_cons_next hstep]
    cases hv : v.st
    · have hend := busyStep_remaining_of_ends hinv hp hs hstep hv
      obtain rfl : ps = [] := List.length_eq_zero_iff.1 (by omega)
      exact ⟨v, rfl, hmode, hone, fun _ => busyStep_dv_of_ends hp hs hstep hv⟩
    · obtain ⟨u, hrun, hmode', hsteps, hdv⟩ := ih (busyStep_stateInv hp hs hinv hstep) hv
        (fun q hq => hps q (by simp [hq])) (by omega)
      exact ⟨u, hrun, hmode'.trans hmode, by omega, hdv⟩

theorem phaseNat_le_one (ph : Phase) : phaseNat ph ≤ 1 := by cases ph <;> decide

/-- The half-rounds done and those that remain are the 64 of a block operation. -/
theorem halfRounds_add_remaining (hinv : StateInv delta s) :
    2 * s.rnd.toNat + phaseNat s.phase + remaining s = 64 := by
  have hrnd := hinv.rnd_le
  have hle := phaseNat_le_one s.phase
  have hround : s.phase = .a ∨ s.rnd.toNat ≤ 31 := by
    cases hs : s.st
    · exact .inl (hinv.idle_rest hs).1
    · exact .inr (hinv.busy_flags hs).2.2
  rw [remaining]
  rcases hround with hph | hlt
  · simp only [hph, phaseNat]; omega
  · omega

/-- The accumulator during a block operation and at its end (items 5 to 7 of rule R39). -/
theorem sum_eq_sumAfter (hinv : StateInv delta s) (hdv : s.st = .idle → s.dv = true) :
    s.sum = sumAfter delta s.mode (s.rnd.toNat + phaseNat s.phase) := by
  cases hs : s.st
  · obtain ⟨hph, -, hvalid⟩ := (stateInv_iff_of_idle hs).1 hinv
    obtain ⟨hrnd, -, hsum⟩ := hvalid (hdv hs)
    rw [hsum, hph, hrnd]; rfl
  · obtain ⟨-, -, -, hsum⟩ := (stateInv_iff_of_busy hs).1 hinv
    exact hsum

theorem busy_iff_remaining_pos (hinv : StateInv delta s) (hdv : s.st = .idle → s.dv = true) :
    s.st = .busy ↔ 0 < remaining s := by
  cases hs : s.st
  · obtain ⟨-, hrnd, -⟩ := hinv.valid_done (hdv hs)
    simp [remaining, hrnd]
  · simpa using Nat.pos_of_ne_zero (remaining_ne_zero_of_busy hinv hs)

/-- The state some micro-operations into a block operation, in either direction. -/
theorem exists_blockTrajectory (hs : s.st = .idle) (hkv : s.kv = true) {ps : List InPorts}
    (hps : NoReset ps) (hlen : ps.length ≤ 64) (m : Mode) (c : Word × Word) :
    ∃ t u, exec (blockInstr m c) s = .next t ∧ coreRun ps t = .next u ∧ u.mode = m ∧
      u.sum = sumAfter Config.delta m ((ps.length + 1) / 2) ∧ u.rnd.toNat = ps.length / 2 ∧
      phaseNat u.phase = ps.length % 2 ∧ (u.st = .busy ↔ ps.length < 64) := by
  have hinv := beginBlock_loadBlock_stateInv (delta := Config.delta) hkv m c.1 c.2
  obtain ⟨u, hrun, hmode, hsteps, hdv⟩ := exists_coreRun_of_busy hinv (beginBlock_st ..) hps hlen
  have hinv' := coreRun_stateInv hinv hrun
  have hcount : ps.length + remaining u = 64 := (Nat.add_comm ..).trans hsteps
  have hhalf := halfRounds_add_remaining hinv'
  have hphase := phaseNat_le_one u.phase
  have hsum := sum_eq_sumAfter hinv' hdv
  have hA : u.rnd.toNat + phaseNat u.phase = (ps.length + 1) / 2 := by omega
  rw [hmode, beginBlock_mode, hA] at hsum
  refine ⟨_, u, exec_blockInstr hs hkv m c, hrun, hmode, hsum, by omega, by omega, ?_⟩
  rw [busy_iff_remaining_pos hinv' hdv]
  omega

end

/-- Settles O39: the trajectory in each direction. -/
theorem accumulatorTrajectory : Obligations.AccumulatorTrajectory :=
  fun a b _ _ hs hkv hps hlen => ⟨exists_blockTrajectory hs hkv hps hlen .enc (a, b),
    exists_blockTrajectory hs hkv hps hlen .dec (a, b)⟩

end Sys2Proof.Machine
end

section
/-! A word and its four bytes (rules R132, R133): both directions as numbers in the big-endian order, and
the little-endian order as the big-endian one reversed. -/

namespace Sys2Proof.Machine

theorem decodeWord_le (b0 b1 b2 b3 : Byte) : decodeWord .le b0 b1 b2 b3 = decodeWord .be b3 b2 b1 b0 := rfl

theorem encodeWord_be_eq_reverse (w : Word) : encodeWord .be w = (encodeWord .le w).reverse := rfl

theorem toNat_append_byte {n : Nat} (x : BitVec n) (b : Byte) :
    (x ++ b).toNat = x.toNat * 2 ^ 8 + b.toNat := by
  rw [BitVec.toNat_append, ← Nat.shiftLeft_add_eq_or_of_lt b.isLt, Nat.shiftLeft_eq]

theorem toNat_decodeWord_be (b0 b1 b2 b3 : Byte) : (decodeWord .be b0 b1 b2 b3).toNat =
    b0.toNat * 2 ^ 24 + b1.toNat * 2 ^ 16 + b2.toNat * 2 ^ 8 + b3.toNat := by
  simp only [decodeWord, toNat_append_byte]
  omega

/-- Settles O48: the little-endian word is the big-endian word of the bytes reversed. -/
theorem wordDecodeFormulas : Obligations.WordDecodeFormulas :=
  fun b0 b1 b2 b3 => ⟨toNat_decodeWord_be b0 b1 b2 b3, toNat_decodeWord_be b3 b2 b1 b0⟩

theorem toNat_byteAt (w : Word) (i : Nat) : (w.extractLsb' i 8).toNat = w.toNat / 2 ^ i % 256 := by
  rw [BitVec.extractLsb'_toNat, Nat.shiftRight_eq_div_pow]

theorem map_toNat_encodeWord_le (w : Word) : (encodeWord .le w).map BitVec.toNat =
    [w.toNat % 256, w.toNat / 2 ^ 8 % 256, w.toNat / 2 ^ 16 % 256, w.toNat / 2 ^ 24 % 256] := by
  simp only [encodeWord, List.map_cons, List.map_nil, toNat_byteAt, pow_zero, Nat.div_one]

theorem map_toNat_encodeWord_be (w : Word) : (encodeWord .be w).map BitVec.toNat =
    [w.toNat / 2 ^ 24 % 256, w.toNat / 2 ^ 16 % 256, w.toNat / 2 ^ 8 % 256, w.toNat % 256] := by
  rw [encodeWord_be_eq_reverse, List.map_reverse, map_toNat_encodeWord_le]; rfl

/-- A word is determined by its four base-256 digits. -/
theorem encodeWord_be_eq_iff {w : Word} {b0 b1 b2 b3 : Byte} :
    encodeWord .be w = [b0, b1, b2, b3] ↔ decodeWord .be b0 b1 b2 b3 = w := by
  rw [← (List.map_injective_iff.2 fun _ _ => BitVec.eq_of_toNat_eq).eq_iff, map_toNat_encodeWord_be,
    ← BitVec.toNat_inj, toNat_decodeWord_be]
  simp only [List.map_cons, List.map_nil, List.cons.injEq, and_true]
  omega

theorem encodeWord_eq_iff {bo : ByteOrder} {w : Word} {b0 b1 b2 b3 : Byte} :
    encodeWord bo w = [b0, b1, b2, b3] ↔ decodeWord bo b0 b1 b2 b3 = w := by
  cases bo with
  | be => exact encodeWord_be_eq_iff
  | le => rw [decodeWord_le, ← encodeWord_be_eq_iff, encodeWord_be_eq_reverse, List.reverse_eq_iff]; rfl

theorem encodeWord_decodeWord (bo : ByteOrder) (b0 b1 b2 b3 : Byte) :
    encodeWord bo (decodeWord bo b0 b1 b2 b3) = [b0, b1, b2, b3] :=
  encodeWord_eq_iff.2 rfl

theorem exists_decodeWord_eq (bo : ByteOrder) (w : Word) :
    ∃ b0 b1 b2 b3, decodeWord bo b0 b1 b2 b3 = w := by
  cases bo <;> exact ⟨_, _, _, _, encodeWord_eq_iff.1 rfl⟩

/-- Settles O49: the digits of each order, their reversal, and the equivalence of encode and decode. -/
theorem wordEncodeInvertsDecode : Obligations.WordEncodeInvertsDecode := by
  refine ⟨fun w => ⟨map_toNat_encodeWord_be w, map_toNat_encodeWord_le w, encodeWord_be_eq_reverse w, ?_⟩,
    fun _ _ _ _ _ _ => encodeWord_eq_iff⟩
  rw [encodeWord_be_eq_reverse, List.reverse_reverse]

end Sys2Proof.Machine
end

section
/-! Bytes as blocks and blocks as bytes (rule R134): taking chunks and encoding them are inverse to one
another, from which follows how chunks are taken from a concatenation and from a prefix. -/

namespace Sys2Proof.Machine

/-- The chunks of a list of blocks, in order: what `writeChunks` writes. -/
def encodeBlocks (bo : ByteOrder) (rs : List (Word × Word)) : List Byte := (rs.map (encodeChunk bo)).flatten

theorem encodeBlocks_cons (bo : ByteOrder) (r : Word × Word) (rs : List (Word × Word)) :
    encodeBlocks bo (r :: rs) = encodeChunk bo r ++ encodeBlocks bo rs := rfl

theorem encodeBlocks_append (bo : ByteOrder) (rs ts : List (Word × Word)) :
    encodeBlocks bo (rs ++ ts) = encodeBlocks bo rs ++ encodeBlocks bo ts := by
  rw [encodeBlocks, List.map_append, List.flatten_append]; rfl

theorem length_encodeChunk (bo : ByteOrder) (r : Word × Word) : (encodeChunk bo r).length = 8 := by
  cases bo <;> rfl

theorem length_encodeBlocks (bo : ByteOrder) (rs : List (Word × Word)) :
    (encodeBlocks bo rs).length = 8 * rs.length := by
  induction rs with
  | nil => rfl
  | cons r rs ih =>
    rw [encodeBlocks_cons, List.length_append, length_encodeChunk, ih, List.length_cons]
    omega

theorem chunks_cons (bo : ByteOrder) (c0 c1 c2 c3 c4 c5 c6 c7 : Byte) (rest : List Byte) :
    chunks bo (c0 :: c1 :: c2 :: c3 :: c4 :: c5 :: c6 :: c7 :: rest) =
      ((decodeWord bo c0 c1 c2 c3, decodeWord bo c4 c5 c6 c7) :: (chunks bo rest).1, (chunks bo rest).2) := rfl

/-- Settles O50: the first group of four bytes is v0 under both byte orders. -/
theorem chunkIsBlockInBufferOrder : Obligations.ChunkIsBlockInBufferOrder :=
  fun bo c0 c1 c2 c3 c4 c5 c6 c7 _ => ⟨chunks_cons bo c0 c1 c2 c3 c4 c5 c6 c7 [], rfl⟩

theorem encodeChunk_decodeWord (bo : ByteOrder) (c0 c1 c2 c3 c4 c5 c6 c7 : Byte) :
    encodeChunk bo (decodeWord bo c0 c1 c2 c3, decodeWord bo c4 c5 c6 c7) =
      [c0, c1, c2, c3, c4, c5, c6, c7] := by
  simp only [encodeChunk, encodeWord_decodeWord, List.cons_append, List.nil_append]

theorem chunks_encodeChunk_append (bo : ByteOrder) (r : Word × Word) (bytes : List Byte) :
    chunks bo (encodeChunk bo r ++ bytes) = (r :: (chunks bo bytes).1, (chunks bo bytes).2) := by
  obtain ⟨v0, v1⟩ := r
  obtain ⟨c0, c1, c2, c3, rfl⟩ := exists_decodeWord_eq bo v0
  obtain ⟨c4, c5, c6, c7, rfl⟩ := exists_decodeWord_eq bo v1
  rw [encodeChunk_decodeWord]
  exact chunks_cons bo c0 c1 c2 c3 c4 c5 c6 c7 bytes

/-- Encoded blocks are taken as those blocks. -/
theorem chunks_encodeBlocks_append (bo : ByteOrder) (rs : List (Word × Word)) (bytes : List Byte) :
    chunks bo (encodeBlocks bo rs ++ bytes) = (rs ++ (chunks bo bytes).1, (chunks bo bytes).2) := by
  induction rs with
  | nil => rfl
  | cons r rs ih =>
    rw [encodeBlocks_cons, List.append_assoc, chunks_encodeChunk_append, ih, List.cons_append]

theorem chunks_encodeBlocks (bo : ByteOrder) (rs : List (Word × Word)) :
    chunks bo (encodeBlocks bo rs) = (rs, []) := by
  have hchunks := chunks_encodeBlocks_append bo rs []
  rw [List.append_nil] at hchunks
  exact hchunks.trans (congrArg (Prod.mk · []) (List.append_nil rs))

/-- The blocks taken from some bytes encode to them, but for the trailing partial chunk. -/
theorem encodeBlocks_chunks_append (bo : ByteOrder) (bytes : List Byte) :
    encodeBlocks bo (chunks bo bytes).1 ++ (chunks bo bytes).2 = bytes := by
  fun_induction chunks bo bytes with
  | case1 b0 b1 b2 b3 b4 b5 b6 b7 rest r ih =>
    rw [encodeBlocks_cons, encodeChunk_decodeWord, List.append_assoc, ih]; rfl
  | case2 tail _ => rfl

theorem length_chunks_snd (bo : ByteOrder) (bytes : List Byte) :
    (chunks bo bytes).2.length = bytes.length % 8 := by
  have hlen := congrArg List.length (encodeBlocks_chunks_append bo bytes)
  rw [List.length_append, length_encodeBlocks, length_chunks] at hlen
  omega

theorem chunks_snd_eq_nil_iff {bo : ByteOrder} {bytes : List Byte} :
    (chunks bo bytes).2 = [] ↔ bytes.length % 8 = 0 := by
  rw [← List.length_eq_zero_iff, length_chunks_snd]

theorem encodeBlocks_chunks {bytes : List Byte} (h : bytes.length % 8 = 0) (bo : ByteOrder) :
    encodeBlocks bo (chunks bo bytes).1 = bytes := by
  have hjoin := encodeBlocks_chunks_append bo bytes
  rwa [chunks_snd_eq_nil_iff.2 h, List.append_nil] at hjoin

theorem chunks_append {x : List Byte} (hx : x.length % 8 = 0) (y : List Byte) (bo : ByteOrder) :
    chunks bo (x ++ y) = ((chunks bo x).1 ++ (chunks bo y).1, (chunks bo y).2) := by
  have hsplit := chunks_encodeBlocks_append bo (chunks bo x).1 y
  rwa [encodeBlocks_chunks hx] at hsplit

/-- The first n chunks of some bytes are the chunks of their first 8n bytes. -/
theorem chunks_take {n : Nat} {bytes : List Byte} (hn : n ≤ bytes.length / 8) (bo : ByteOrder) :
    (chunks bo (bytes.take (n * 8))).1 = (chunks bo bytes).1.take n := by
  have hlen : (bytes.take (n * 8)).length = n * 8 := List.length_take_of_le (by omega)
  have hchunks : (chunks bo (bytes.take (n * 8))).1.length = n := by rw [length_chunks, hlen]; omega
  have happ := chunks_append (by omega : (bytes.take (n * 8)).length % 8 = 0) (bytes.drop (n * 8)) bo
  rw [List.take_append_drop] at happ
  rw [happ, List.take_left' hchunks]

end Sys2Proof.Machine
end

section
/-! The buffer calls (rules R135, R136, R138 to R140) over any block function. -/

namespace Sys2Proof.Machine

/-- Every whole chunk of some bytes ciphered by itself: what a buffer call writes. -/
def cipherBytes (f : Word → Word → Word × Word) (bo : ByteOrder) (bytes : List Byte) : List Byte :=
  encodeBlocks bo ((chunks bo bytes).1.map fun c => f c.1 c.2)

section

variable {f : Word → Word → Word × Word} {bo : ByteOrder} {input output : List Byte}

theorem cipherBuffer_of_lengths (hmod : input.length % 8 = 0) (hlen : output.length = input.length) :
    cipherBuffer f input output bo = ⟨cipherBytes f bo input, none⟩ := by
  rw [cipherBuffer, if_pos ((lengthsMatch_iff input output).2 ⟨hmod, hlen⟩), cipherBytes, encodeBlocks,
    List.map_map]
  rfl

theorem cipherBuffer_of_bad_lengths (h : ¬(input.length % 8 = 0 ∧ output.length = input.length)) :
    cipherBuffer f input output bo = ⟨output, some .invalidLength⟩ := by
  rw [cipherBuffer, if_neg (mt (lengthsMatch_iff input output).1 h)]

theorem cipherBuffer_error_eq_none_iff : (cipherBuffer f input output bo).error = none ↔
    input.length % 8 = 0 ∧ output.length = input.length := by
  by_cases h : input.length % 8 = 0 ∧ output.length = input.length
  · simp only [cipherBuffer_of_lengths h.1 h.2, h, and_self]
  · simp only [cipherBuffer_of_bad_lengths h, h, reduceCtorEq]

theorem length_cipherBytes (hmod : input.length % 8 = 0) : (cipherBytes f bo input).length = input.length := by
  rw [cipherBytes, length_encodeBlocks, List.length_map, length_chunks]
  omega

theorem length_cipherBuffer_output : (cipherBuffer f input output bo).output.length = output.length := by
  by_cases h : input.length % 8 = 0 ∧ output.length = input.length
  · obtain ⟨hmod, hlen⟩ := h
    rw [cipherBuffer_of_lengths hmod hlen, length_cipherBytes hmod, hlen]
  · rw [cipherBuffer_of_bad_lengths h]

theorem cipherBytes_append {x : List Byte} (hx : x.length % 8 = 0) (y : List Byte) :
    cipherBytes f bo (x ++ y) = cipherBytes f bo x ++ cipherBytes f bo y := by
  rw [cipherBytes, chunks_append hx, List.map_append, encodeBlocks_append]; rfl

theorem cipherBytes_cons (c0 c1 c2 c3 c4 c5 c6 c7 : Byte) (rest : List Byte) :
    cipherBytes f bo (c0 :: c1 :: c2 :: c3 :: c4 :: c5 :: c6 :: c7 :: rest) =
      encodeChunk bo (f (decodeWord bo c0 c1 c2 c3) (decodeWord bo c4 c5 c6 c7)) ++ cipherBytes f bo rest := rfl

theorem cipherBytes_cipherBytes {g : Word → Word → Word × Word}
    (hgf : ∀ a b, g (f a b).1 (f a b).2 = (a, b)) (hmod : input.length % 8 = 0) :
    cipherBytes g bo (cipherBytes f bo input) = input := by
  have hblocks : ((chunks bo input).1.map fun c => f c.1 c.2).map (fun c => g c.1 c.2) =
      (chunks bo input).1 := by
    simp only [List.map_map, Function.comp_def, hgf, Prod.mk.eta, List.map_id']
  rw [cipherBytes, cipherBytes, chunks_encodeBlocks, hblocks, encodeBlocks_chunks hmod]

/-- A block function undone by another: so is its buffer call, under one byte order. -/
theorem cipherBuffer_cipherBuffer {g : Word → Word → Word × Word}
    (hgf : ∀ a b, g (f a b).1 (f a b).2 = (a, b)) {o1 o2 : List Byte} (hmod : input.length % 8 = 0)
    (h1 : o1.length = input.length) (h2 : o2.length = input.length) :
    cipherBuffer g (cipherBuffer f input o1 bo).output o2 bo = ⟨input, none⟩ := by
  have hlen := length_cipherBytes (f := f) (bo := bo) hmod
  rw [cipherBuffer_of_lengths hmod h1, cipherBuffer_of_lengths (hlen ▸ hmod) (h2.trans hlen.symm),
    cipherBytes_cipherBytes hgf hmod]

/-- The output bytes at a whole chunk's offset: the bytes before it are ciphered to as many. -/
theorem cipherBytes_chunk {j : Nat} {c0 c1 c2 c3 c4 c5 c6 c7 : Byte}
    (hc : (input.drop (8 * j)).take 8 = [c0, c1, c2, c3, c4, c5, c6, c7]) :
    ((cipherBytes f bo input).drop (8 * j)).take 8 =
      encodeChunk bo (f (decodeWord bo c0 c1 c2 c3) (decodeWord bo c4 c5 c6 c7)) := by
  have hbefore : (input.take (8 * j)).length = 8 * j := by
    have hlen := congrArg List.length hc
    simp only [List.length_take, List.length_drop, List.length_cons, List.length_nil] at hlen
    exact List.length_take_of_le (by omega)
  have hmod : (input.take (8 * j)).length % 8 = 0 := by omega
  have hfrom : input.drop (8 * j) =
      c0 :: c1 :: c2 :: c3 :: c4 :: c5 :: c6 :: c7 :: (input.drop (8 * j)).drop 8 := by
    conv_lhs => rw [← List.take_append_drop 8 (input.drop (8 * j)), hc]
    rfl
  have hsplit := cipherBytes_append (f := f) (bo := bo) hmod (input.drop (8 * j))
  rw [List.take_append_drop, hfrom, cipherBytes_cons] at hsplit
  rw [hsplit, List.drop_left' ((length_cipherBytes hmod).trans hbefore),
    List.take_left' (length_encodeChunk bo _)]

end

/-- Settles O51: both calls are `cipherBuffer`, whose lengths are good or bad. -/
theorem bufferLengthChecked : Obligations.BufferLengthChecked := by
  intro delta k input output bo call f h
  have hcall : call = cipherBuffer f input output bo := by
    rcases h with ⟨rfl, rfl⟩ | ⟨rfl, rfl⟩ <;> rfl
  subst hcall
  refine ⟨?_, fun he => cipherBuffer_of_bad_lengths (mt cipherBuffer_error_eq_none_iff.2 he),
    length_cipherBuffer_output, fun he j _ _ _ _ _ _ _ _ hc => ?_⟩
  · rw [Ne, cipherBuffer_error_eq_none_iff, not_and_or]
  · obtain ⟨hmod, hlen⟩ := cipherBuffer_error_eq_none_iff.1 he
    rw [cipherBuffer_of_lengths hmod hlen]
    exact cipherBytes_chunk hc

/-- Settles O52: chunks are taken from the parts, and a chunk of eight bytes is one block. -/
theorem buffersDoNotChain : Obligations.BuffersDoNotChain := by
  constructor
  · intro f x y ox oy bo hx hy hox hoy
    have hmod : (x ++ y).length % 8 = 0 := by rw [List.length_append]; omega
    have hlen : (ox ++ oy).length = (x ++ y).length := by rw [List.length_append, List.length_append, hox, hoy]
    rw [cipherBuffer_of_lengths hmod hlen, cipherBuffer_of_lengths hx hox, cipherBuffer_of_lengths hy hoy,
      cipherBytes_append hx]
  · intro f c0 c1 c2 c3 c4 c5 c6 c7 o bo ho
    rw [cipherBuffer_of_lengths (by simp) ho, cipherBytes_cons]
    exact congrArg (BufferResult.mk · none) (List.append_nil _)

/-- Settles O53: each direction's block function undoes the other's (rule R98). -/
theorem bufferRoundTrip : Obligations.BufferRoundTrip := by
  intro delta k input o1 o2 bo hmod h1 h2
  obtain ⟨hdecEnc, hencDec, -⟩ := decipherInvertsEncipher delta k
  exact ⟨cipherBuffer_cipherBuffer hdecEnc hmod h1 h2, cipherBuffer_cipherBuffer hencDec hmod h1 h2⟩

end Sys2Proof.Machine
end

section
/-! The stream calls (rule R137) over any block function. -/

namespace Sys2Proof.Machine

section

variable {f : Word → Word → Word × Word} {bo : ByteOrder} {source : List Byte}

/-- A buffer call on the first n whole chunks of a source. -/
theorem cipherBuffer_take {n : Nat} (hn : n ≤ source.length / 8) :
    cipherBuffer f (source.take (n * 8)) (source.take (n * 8)) bo =
      ⟨encodeBlocks bo (((chunks bo source).1.take n).map fun c => f c.1 c.2), none⟩ := by
  have hlen : (source.take (n * 8)).length = n * 8 := List.length_take_of_le (by omega)
  rw [cipherBuffer_of_lengths (by omega) rfl, cipherBytes, chunks_take hn]

theorem cipherStream_sink_never_fails (srcFails : Option Nat) : cipherStream f bo source srcFails none =
    ⟨(cipherBuffer f (source.take (source.length / 8 * 8)) (source.take (source.length / 8 * 8)) bo).output,
      sourceEndError bo source srcFails⟩ := by
  rw [cipherBuffer_take (le_refl _), List.take_of_length_le (length_chunks bo source).le, encodeBlocks,
    List.map_map]
  rfl

theorem cipherStream_sink_fails {n : Nat} (hn : n < source.length / 8) (srcFails : Option Nat) (cause : Nat) :
    cipherStream f bo source srcFails (some (n, cause)) =
      ⟨(cipherBuffer f (source.take (n * 8)) (source.take (n * 8)) bo).output, some (.ioFailure cause)⟩ := by
  rw [cipherBuffer_take hn.le, encodeBlocks, List.map_map]
  exact if_pos (by rwa [length_chunks])

theorem sourceEndError_none : sourceEndError bo source none =
    if source.length % 8 = 0 then none else some .incompleteBlock := by
  simp only [sourceEndError, chunks_snd_eq_nil_iff]

end

/-- Settles O54: by which of source and sink fails. -/
theorem streamsWriteWholeChunks : Obligations.StreamsWriteWholeChunks := by
  intro f bo src cause n
  refine ⟨?_, cipherStream_sink_never_fails (some cause), fun hn => cipherStream_sink_fails hn none cause⟩
  rw [cipherStream_sink_never_fails, sourceEndError_none]

end Sys2Proof.Machine
end

section
/-! Exceptions (rules R150, R154, R156): a step stops at the two protocol violations and nowhere else, is
never refused, and evaluates reset, micro-operation and acceptance in that order. -/

namespace Sys2Proof.Machine

section

variable {delta : Word} {i : Instr} {p : InPorts} {s : State} {r : Fault}

/-- An instruction stops exactly where it is a block command on an idle core without a key. -/
theorem execWith_fault_iff : execWith delta i s = .fault r ↔
    r = .protocolViolation .noKey ∧ (blockCommand i).isSome ∧ s.st = .idle ∧ s.kv = false := by
  constructor
  · intro h
    rcases execWith_cases delta i s with ⟨_, _, e⟩ | ⟨_, e⟩ | ⟨_, _, _, _, _, _, e⟩ | ⟨_, _, _, _, _, e⟩ |
      ⟨_, _, _, _, _, e⟩ | ⟨hi, hs, hk, e⟩ | ⟨_, e⟩ | ⟨_, e⟩ | ⟨_, e⟩ | ⟨_, e⟩ <;>
      rw [e] at h <;> cases h
    exact ⟨rfl, hi, hs, hk⟩ -- every other case completes
  · rintro ⟨rfl, hi, hs, hk⟩
    cases i with
    | encipher a b => exact (accept_idle hs _).trans (acceptBlock_noKey hk ..)
    | decipher a b => exact (accept_idle hs _).trans (acceptBlock_noKey hk ..)
    | nop | setkey | encA | encB | decA | decB => cases hi

theorem exec_fault_iff : exec i s = .fault r ↔
    r = .protocolViolation .noKey ∧ (blockCommand i).isSome ∧ s.st = .idle ∧ s.kv = false :=
  execWith_default i s ▸ execWith_fault_iff

/-- A step of the core stops only at the acceptance of a command: reset and micro-operations complete. -/
theorem accepts_of_coreStep_fault (h : coreStep p s delta = .fault r) : p.rst = false ∧ s.st = .idle ∧
    p.cmdValid = true ∧ execWith delta (decodeCmd p) s = .fault r := by
  cases hp : p.rst
  · cases hs : s.st
    · cases hv : p.cmdValid
      · cases (coreStep_nothing hp hs hv).symm.trans h
      · exact ⟨rfl, rfl, rfl, (coreStepWith_command hp hs hv).symm.trans h⟩
    · obtain ⟨t, ht⟩ := coreStep_busy_next (delta := delta) hp hs
      cases ht.symm.trans h
  · cases (coreStep_reset hp s delta).symm.trans h

/-- A READ without a result has no value, whatever the core would do. -/
theorem step_of_read_invalid (hreads : hostReads s = true) (hdv : s.dv = false) :
    step s = .fault (.protocolViolation .noData) := by
  rcases step_cases s with ⟨-, -, e⟩ | ⟨hvalid, -⟩ | ⟨hvalid, -⟩
  · exact e
  · simp [hvalid hreads] at hdv
  · simp [hvalid hreads] at hdv

theorem step_not_refused (s : State) (r : Refusal) : step s ≠ .refused r := by
  rcases step_cases s with ⟨-, -, e⟩ | ⟨-, t, -, e⟩ | ⟨-, r', -, e⟩ <;> simp [e]

end

/-- Settles O21: the key is missing in either direction, or the result is. -/
theorem protocolViolationsFault : Obligations.ProtocolViolationsFault :=
  ⟨fun _ _ _ hs hk => ⟨exec_fault_iff.2 ⟨rfl, rfl, hs, hk⟩, exec_fault_iff.2 ⟨rfl, rfl, hs, hk⟩⟩,
    fun _ _ hscript hdv => step_of_read_invalid (hostReads_read hscript) hdv⟩

/-- Settles O22: a step stops at the host's READ or in the core, and the core only where it accepts a
block command without a key. -/
theorem onlyViolationsFault : Obligations.OnlyViolationsFault := by
  refine ⟨fun s r h => ?_, step_not_refused⟩
  rcases step_cases s with ⟨hreads, hdv, e⟩ | ⟨-, t, -, e⟩ | ⟨-, r', hcore, e⟩ <;>
    cases e.symm.trans h
  · exact .inr ⟨rfl, hreads, hdv⟩
  · obtain ⟨hp, -, hv, hexec⟩ := accepts_of_coreStep_fault hcore
    obtain ⟨hr, hi, hs, hk⟩ := execWith_fault_iff.1 hexec
    exact .inl ⟨hr, hs, hk, hp, hv, hi⟩

/-- Settles O23: the core's four cases, each by its own equation. -/
theorem stepOrderOfEvaluation : Obligations.StepOrderOfEvaluation :=
  fun _ s => ⟨fun hp => coreStep_reset hp s, fun hp hs => coreStep_busy hp hs,
    fun hp hs hv => coreStep_command hp hs hv, fun hp hs hv => coreStep_nothing hp hs hv⟩

end Sys2Proof.Machine
end

section
/-! A reset during a block operation (rules R171, R172): the core it leaves idles under every command but
SETKEY, and stops at a block command. -/

namespace Sys2Proof.Machine

section

variable {delta : Word} {p : InPorts} {s : State}

/-- On an idle core NOP and no command at all change nothing. -/
theorem coreStep_of_nop (hs : s.st = .idle) (hp : p.rst = false)
    (hc : p.cmdValid = true → p.cmd = 0b00#2) : coreStep p s delta = .next s := by
  cases hv : p.cmdValid
  · exact coreStep_next_iff.2 (.nothing hp hs hv)
  · exact coreStep_next_iff.2 (.nop hp hs hv (hc hv))

theorem coreRun_of_nops {ps : List InPorts} (hs : s.st = .idle) (hps : NoReset ps)
    (hcs : ∀ q ∈ ps, q.cmdValid = true → q.cmd = 0b00#2) : coreRun ps s delta = .next s := by
  induction ps with
  | nil => rfl
  | cons p ps ih =>
    rw [coreRun_cons_next (coreStep_of_nop hs (hps p (by simp)) (hcs p (by simp)))]
    exact ih (fun q hq => hps q (by simp [hq])) (fun q hq => hcs q (by simp [hq]))

end

/-- Settles O34: the steps that follow leave the state of the reset event, which is idle and has neither
result nor key. -/
theorem resetAbortsAndForgetsKey : Obligations.ResetAbortsAndForgetsKey := by
  intro p ps s t hrst _ hstep hps hcs
  cases (coreStep_reset hrst s).symm.trans hstep
  have hidle : (resetEvent s).st = .idle := resetEvent_st s
  have hkv : (resetEvent s).kv = false := resetEvent_kv s
  have hdv : (resetEvent s).dv = false := resetEvent_dv s
  exact ⟨resetEvent s, coreRun_of_nops hidle hps hcs, hidle, hdv, hkv, readResult_invalid hdv,
    resetEvent_results s, fun i hi => exec_fault_iff.2 ⟨rfl, hi, hidle, hkv⟩⟩

end Sys2Proof.Machine
end

section
/-! Liveness of block operations (rule R183): what begins one, how long it takes, and what makes a result
valid. -/

namespace Sys2Proof.Machine

section

variable {delta : Word} {p : InPorts} {s t : State}

theorem exists_eq_blockInstr {i : Instr} (hi : (blockCommand i).isSome) :
    ∃ m c, i = blockInstr m c := by
  cases i with
  | encipher a b => exact ⟨.enc, (a, b), rfl⟩
  | decipher a b => exact ⟨.dec, (a, b), rfl⟩
  | nop | setkey | encA | encB | decA | decB => cases hi

/-- An accepted block command has all its micro-operations before it. -/
theorem remaining_beginBlock (m : Mode) (s : State) : remaining (beginBlock m s) = 64 := rfl

/-- A block operation ends after exactly its remaining micro-operations. -/
theorem exists_coreRun_busy_iff {ps : List InPorts} (hinv : StateInv delta s) (hs : s.st = .busy)
    (hps : NoReset ps) (hlen : ps.length ≤ remaining s) :
    ∃ u, coreRun ps s delta = .next u ∧ StateInv delta u ∧ (u.st = .idle → u.dv = true) ∧
      (u.st = .busy ↔ ps.length < remaining s) := by
  obtain ⟨u, hrun, -, hsteps, hdv⟩ := exists_coreRun_of_busy hinv hs hps hlen
  have hinv' := coreRun_stateInv hinv hrun
  refine ⟨u, hrun, hinv', hdv, ?_⟩
  rw [busy_iff_remaining_pos hinv' hdv]
  omega

/-- Only an accepted block command begins a block operation. -/
theorem CoreMove.begins (h : CoreMove delta p s t) (hs : s.st = .idle) (ht : t.st = .busy) :
    p.rst = false ∧ p.cmdValid = true ∧ (p.cmd = 0b10#2 ∨ p.cmd = 0b11#2) ∧ s.kv = true := by
  cases h with
  | encipher hp _ hv hc hkv => exact ⟨hp, hv, .inl hc, hkv⟩
  | decipher hp _ hv hc hkv => exact ⟨hp, hv, .inr hc, hkv⟩
  | encA _ hb | encB _ hb | decA _ hb | decB _ hb => simp [hs] at hb
  | reset | nothing | nop | setkey => simp [hs] at ht

/-- Only a block operation in progress makes a result valid. -/
theorem CoreMove.busy_of_dv (h : CoreMove delta p s t) (hs : s.dv = false) (ht : t.dv = true) :
    s.st = .busy := by
  cases h with
  | encA _ hb | encB _ hb | decA _ hb | decB _ hb => exact hb
  | reset | encipher | decipher => simp at ht
  | nothing | nop | setkey => simp [hs] at ht

end

/-- Settles O41: acceptance, the count of the remaining micro-operations, and the moves that begin and
end an operation. -/
theorem blockOperationCompletes : Obligations.BlockOperationCompletes := by
  refine ⟨fun i s hi hs hkv => ?_, fun s ps hinv hs hps => ⟨fun hlen => ?_, fun hlen => ?_⟩,
    fun _ _ _ hstep => (coreStep_next_iff.1 hstep).begins,
    fun _ _ _ hstep => (coreStep_next_iff.1 hstep).busy_of_dv⟩
  · obtain ⟨m, c, rfl⟩ := exists_eq_blockInstr hi
    exact ⟨_, exec_blockInstr hs hkv m c, beginBlock_st .., remaining_beginBlock ..,
      beginBlock_loadBlock_stateInv hkv m c.1 c.2⟩
  · obtain ⟨t, hrun, -, hdv, hbusy⟩ := exists_coreRun_busy_iff hinv hs hps hlen.le
    have ht : t.st = .idle := by
      cases ht : t.st
      · rfl
      · exact absurd (hbusy.1 ht) hlen.not_lt
    exact ⟨t, hrun, ht, hdv ht⟩
  · obtain ⟨t, hrun, hinv', -, hbusy⟩ := exists_coreRun_busy_iff hinv hs hps hlen.le
    have ht : t.st = .busy := hbusy.2 hlen
    exact ⟨t, hrun, ht, (hinv'.busy_flags ht).2.1⟩

end Sys2Proof.Machine
end

section
/-! Runs (rule R184): an ended run stays where it is and a faulted one goes nowhere, so a run has one end
state at most. -/

namespace Sys2Proof.Machine

section

variable {delta : Word} {script : List HostAction} {n m : Nat} {s t u : State}

theorem stepRun_of_ended (hs : runEnded s = true) (n : Nat) : stepRun n s delta = .next s := by
  induction n with
  | zero => rfl
  | succ n ih => exact (stepRunWith_succ_next (machineStep_ended hs delta)).trans ih

theorem stepRun_add_fault {r : Fault} (m : Nat) (h : stepRun n s delta = .fault r) :
    stepRun (n + m) s delta = .fault r := by
  induction n generalizing s with
  | zero => cases h
  | succ n ih =>
    rw [Nat.add_right_comm]
    simp only [stepRun] at h ⊢
    cases hs : machineStep s delta with
    | next v => rw [hs] at h; exact ih h
    | fault r' => rw [hs] at h; exact h
    | refused r' => rw [hs] at h; cases h

theorem stepRun_add_of_ended (m : Nat) (h : stepRun n s delta = .next t) (ht : runEnded t = true) :
    stepRun (n + m) s delta = .next t :=
  (stepRun_add_next m h).trans (stepRun_of_ended ht m)

/-- The ended states that the steps of a run reach are one. -/
theorem ended_unique (h : stepRun n s delta = .next t) (ht : runEnded t = true)
    (h' : stepRun m s delta = .next u) (hu : runEnded u = true) : u = t := by
  have hboth := stepRun_add_of_ended n h' hu
  rw [Nat.add_comm, stepRun_add_of_ended m h ht] at hboth
  cases hboth
  rfl

/-- The end state is the ended state that the run's steps reach. -/
theorem runEndsIn_iff : RunEndsIn script t delta ↔
    runEnded t = true ∧ ∃ n, stepRun n (runStart script) delta = .next t := by
  constructor
  · rintro ⟨n, h⟩
    obtain ⟨ht, m, -, hrun⟩ := endWithin_some h
    exact ⟨ht, m, hrun⟩
  · rintro ⟨ht, n, hrun⟩
    exact ⟨n, endWithin_of_stepRun hrun ht⟩

/-- A run that contains a protocol violation has no end state. -/
theorem not_runEndsIn_of_fault {r : Fault} (h : stepRun n (runStart script) delta = .fault r) :
    ¬ ∃ t, RunEndsIn script t delta := by
  rintro ⟨t, hends⟩
  obtain ⟨ht, m, hrun⟩ := runEndsIn_iff.1 hends
  have hboth := stepRun_add_fault m h
  rw [Nat.add_comm, stepRun_add_of_ended n hrun ht] at hboth
  cases hboth

theorem observe_of_idle (hs : s.st = .idle) : observe s =
    { cmdReady := true, dv := s.dv, dout := if s.dv then some (s.v0, s.v1) else none } := by
  rw [observe, portCmdReady, hs]; rfl

end

/-- Settles O58: an end state is an ended state that the steps reach, and of these there is one, and none
where the steps fault. -/
theorem runHasOneEndState : Obligations.RunHasOneEndState := by
  refine fun delta script => ⟨fun t hends => ?_, fun n t hrun hscript hs => ?_,
    fun n r => not_runEndsIn_of_fault⟩
  · obtain ⟨ht, n, hrun⟩ := runEndsIn_iff.1 hends
    obtain ⟨hscript, hs⟩ := (runEnded_iff t).1 ht
    refine ⟨hscript, hs, ⟨n, hrun⟩, fun u hends' => ?_, observe_of_idle hs⟩
    obtain ⟨hu, m, hrun'⟩ := runEndsIn_iff.1 hends'
    exact ended_unique hrun ht hrun' hu
  · exact runEndsIn_iff.2 ⟨(runEnded_iff t).2 ⟨hscript, hs⟩, n, hrun⟩

end Sys2Proof.Machine
end

section
/-! The run of a construction and a block operation (rules R81, R92, R173), in either direction: with the
key it ends at the completed operation, without it the block command stops it. -/

namespace Sys2Proof.Machine

section

variable {delta : Word} {m : Mode} {c : Word × Word} {n : Nat} {s t : State}
  {rest : List HostAction}

/-- With no line left the step of core and host is the core's step. -/
theorem machineStep_of_empty_script (hscript : s.script = [])
    (h : coreStep InPorts.idle s delta = .next t) : machineStep s delta = .next t := by
  have hreads : hostReads s = false := by simp [hostReads, hscript]
  have hports : drivenPorts s = InPorts.idle := by simp [drivenPorts, hscript]
  obtain ⟨hscript', hresults⟩ := coreStep_host_frame h
  rw [machineStep_of_coreStep (by simp [hreads]) (hports.symm ▸ h), hostAdvance,
    scriptAfter_nil t hscript, resultsAfter_of_not_reading hreads, ← hscript, ← hscript', ← hresults]

theorem stepRun_of_empty_script (hscript : s.script = [])
    (h : coreRun (List.replicate n InPorts.idle) s delta = .next t) : stepRun n s delta = .next t := by
  induction n generalizing s with
  | zero => exact h
  | succ n ih =>
    rw [List.replicate_succ] at h
    cases hstep : coreStep InPorts.idle s delta with
    | next u =>
      rw [stepRunWith_succ_next (machineStep_of_empty_script hscript hstep)]
      exact ih ((coreStep_host_frame hstep).1.trans hscript) ((coreRun_cons_next hstep).symm.trans h)
    | fault r => simp [coreRun, hstep] at h
    | refused r => exact absurd hstep (coreStep_not_refused InPorts.idle s r delta)

/-- The state in which a block operation accepted by `s` completes, with the lines still to perform. -/
def blockDone (delta : Word) (m : Mode) (c : Word × Word) (rest : List HostAction) (s : State) : State :=
  { completed (blockCipher delta s.k m c.1 c.2) (sumAfter delta m 32)
      (beginBlock m (loadBlock c.1 c.2 (sumAfter delta m 0) s)) with script := rest }

theorem observe_blockDone (delta : Word) (m : Mode) (c : Word × Word) (rest : List HostAction)
    (s : State) : observe (blockDone delta m c rest s) =
      { cmdReady := true, dv := true, dout := some (blockCipher delta s.k m c.1 c.2) } :=
  observe_of_idle rfl

theorem machineStep_blockInstr (hs : s.st = .idle) (hkv : s.kv = true)
    (hscript : s.script = commandLine (blockInstr m c) :: rest) : machineStep s delta =
      .next (beginBlock m (loadBlock c.1 c.2 (sumAfter delta m 0) { s with script := rest })) :=
  machineStep_commandLine (blockInstr_format m c) hscript hs (execWith_blockInstr_accepted hs hkv m c)

/-- A block command as the last line: one step to accept it, and the host idle for 64. -/
theorem stepRun_blockInstr (hs : s.st = .idle) (hkv : s.kv = true)
    (hscript : s.script = [commandLine (blockInstr m c)]) :
    stepRun 65 s delta = .next (blockDone delta m c [] s) :=
  (stepRunWith_succ_next (machineStep_blockInstr hs hkv hscript)).trans <|
    stepRun_of_empty_script rfl <|
      coreRun_blockInstr (s := { s with script := [] }) hkv (noReset_replicate_idle 64)
        List.length_replicate m c

/-- The three lines of a block operation, to their end state (see `stepRun_blockLines`). -/
theorem stepRun_blockLines_eq (hs : s.st = .idle) (hkv : s.kv = true)
    (hscript : s.script = blockLines m c) : stepRun 66 s delta =
      .next { blockDone delta m c [] s with
        results := s.results ++ [blockCipher delta s.k m c.1 c.2] } := by
  have hwait : stepRun 65 s delta = .next (blockDone delta m c [.read] s) :=
    (stepRunWith_succ_next (machineStep_blockInstr hs hkv hscript)).trans
      (stepRun_wait_block (s := { s with script := [.wait, .read] }) hkv rfl m c)
  have hread := machineStep_read (delta := delta) (s := blockDone delta m c [.read] s) rfl rfl rfl
  exact (stepRun_add_next 1 hwait).trans (stepRunWith_succ_next hread)

/-- The core after a construction from reset (rule R92). -/
def keyedStart (k : KeyFile) (script : List HostAction) : State :=
  writeKey k.k0 k.k1 k.k2 k.k3 (runStart script)

theorem machineStep_construct (k : KeyFile) (rest : List HostAction) :
    machineStep (runStart (constructScript k ++ rest)) delta = .next (keyedStart k rest) := by
  have hstep := machineStep_commandLine (delta := delta) (s := runStart (constructScript k ++ rest))
    (rest := rest) rfl rfl rfl (execWith_setkey rfl k.k0 k.k1 k.k2 k.k3)
  exact hstep

/-- After a construction a run is one of the keyed core. -/
theorem runEndsIn_construct {k : KeyFile} (hrun : stepRun n (keyedStart k rest) delta = .next t)
    (ht : runEnded t = true) : RunEndsIn (constructScript k ++ rest) t delta :=
  runEndsIn_iff.2 ⟨ht, n + 1, (stepRunWith_succ_next (machineStep_construct k rest)).trans hrun⟩

/-- A construction and a block command. -/
theorem exists_keyedRun (delta : Word) (m : Mode) (k : KeyFile) (c : Word × Word) :
    ∃ t, RunEndsIn (constructScript k ++ [commandLine (blockInstr m c)]) t delta ∧ t.k = k ∧
      observe t = { cmdReady := true, dv := true, dout := some (blockCipher delta k m c.1 c.2) } :=
  ⟨_, runEndsIn_construct (stepRun_blockInstr rfl rfl rfl) rfl, rfl, observe_blockDone ..⟩

/-- A construction, a block command and the lines that read its result. -/
theorem exists_keyedRun_read (delta : Word) (m : Mode) (k : KeyFile) (c : Word × Word) :
    ∃ t, RunEndsIn (constructScript k ++ blockLines m c) t delta ∧ t.k = k ∧
      t.results = [blockCipher delta k m c.1 c.2] ∧
      observe t = { cmdReady := true, dv := true, dout := some (blockCipher delta k m c.1 c.2) } :=
  ⟨_, runEndsIn_construct (stepRun_blockLines_eq rfl rfl rfl) rfl, rfl, rfl,
    observe_blockDone delta m c [] (keyedStart k (blockLines m c))⟩

/-- A block command as the first line of a run is the protocol violation `NoKey` (rule R173). -/
theorem not_runEndsIn_blockLines (m : Mode) (c : Word × Word) : ¬ ∃ t, RunEndsIn (blockLines m c) t := by
  have hnoKey : exec (blockInstr m c) (runStart (blockLines m c)) = .fault (.protocolViolation .noKey) :=
    exec_fault_iff.2 ⟨rfl, by cases m <;> rfl, rfl, rfl⟩
  have hcore : coreStep (drivenPorts (runStart (blockLines m c))) (runStart (blockLines m c)) =
      .fault (.protocolViolation .noKey) := by
    rw [drivenPorts_command rfl, coreStep_command rfl rfl rfl]
    exact (congrArg (exec · _) (decodeCmd_encodeCmd (blockInstr_format m c))).trans hnoKey
  have hstep : step (runStart (blockLines m c)) = .fault (.protocolViolation .noKey) :=
    step_of_coreStep_fault nofun hcore
  exact not_runEndsIn_of_fault (n := 1) (by rw [stepRun, machineStep_default, hstep])

end

/-- Settles O59: the runs of either direction. -/
theorem keyedRunShowsCipher : Obligations.KeyedRunShowsCipher :=
  fun k a b => ⟨exists_keyedRun _ .enc k (a, b), exists_keyedRun _ .dec k (a, b),
    exists_keyedRun_read _ .enc k (a, b), exists_keyedRun_read _ .dec k (a, b),
    not_runEndsIn_blockLines .enc (a, b), not_runEndsIn_blockLines .dec (a, b)⟩

end Sys2Proof.Machine
end
